-- ==== Sys2Proof/Word.lean ====
section
/-! DEFINITION. The block's data widths: the byte (spec R7), byte strings (R7) and the 34-bit
frequency value of the block's ports (R6 `HZ_W`, R8). -/

namespace Sys2Proof

/-- A byte: 8 bits, a value in 0 .. 255 (R7). -/
abbrev Byte := BitVec 8

/-- A byte string; index 0 is the byte that arrived, or is sent, first (R7, R41). -/
abbrev Bytes := List Byte

/-- A frequency value on the block's ports, `HZ_W = 34` bits, both directions (R6, R8). -/
abbrev Hz := BitVec 34

end Sys2Proof
end

