-- ==== Sys2Proof/Config.lean ====
section
/-! DEFINITION. The constants the spec fixes (R5), the parameters it leaves open (R6), and the one
free value of the model (92_eei_decisions.md D23). -/

namespace Sys2Proof

/-- Which digit of a pair `ENC_FREQ` puts into the high nibble. The spec takes the formula of R130 as
normative and keeps the other reading, R137, as the value of a parameter (U2, D12; DESIGN CHOICE,
assumption log 21). -/
inductive NibbleOrder where
  /-- R130: `byte[j] = pack((hz / 10^(2j)) mod 10, (hz / 10^(2j+1)) mod 10)`. -/
  | formula
  /-- R137, the order under which the source's printed example comes out:
  `byte[j] = pack((hz / 10^(2j+1)) mod 10, (hz / 10^(2j)) mod 10)`. -/
  | printedExample
deriving DecidableEq, Repr

/-- The parameters of one realisation of the block (R6, U2); no operation writes them (DESIGN CHOICE,
assumption log 3). -/
structure Config where
  /-- `BUF_DEPTH`: capacity of the StreamBuffer in bytes, `none` = unbounded (R22, D3). -/
  bufDepth  : Option Nat
  /-- `IDLE_TICKS`: TICK events without a PUSH that make `T_IDLE` (R105, D4). -/
  idleTicks : Nat
  /-- The nibble order of `ENC_FREQ` (U2). -/
  txOrder   : NibbleOrder
deriving DecidableEq, Repr

namespace Config

/-- The values R6 takes: unbounded buffer, 500 ticks, and R130's formula. -/
def standard : Config := { bufDepth := none, idleTicks := 500, txOrder := .formula }

/-- R22: a finite depth is at least 10. -/
def depthLegal (c : Config) : Bool :=
  match c.bufDepth with
  | none => true
  | some d => decide (10 ≤ d)

/-- The parameter values R6 admits. -/
abbrev Legal (c : Config) : Prop := c.depthLegal = true ∧ 1 ≤ c.idleTicks

/-- `START` (R5). -/
def startMark : Byte := 0xFE

/-- `END` (R5). -/
def endMark : Byte := 0xFD

/-- `MIN_FRAME_LEN` (R5). -/
def minFrameLen : Nat := 6

/-- `RADIO_ADDR` (R5, R66). -/
def radioAddr : Byte := 0xE0

/-- `COMPUTER_ADDR` (R5, R66). -/
def computerAddr : Byte := 0x00

/-- Command byte `SET_FREQUENCY` (R5, R64). -/
def cmdSetFrequency : Byte := 0x05

/-- Command byte `GET_FREQUENCY` (R5, R64). -/
def cmdGetFrequency : Byte := 0x03

/-- Command byte `SET_MODE` (R5, R64). -/
def cmdSetMode : Byte := 0x06

/-- Command byte `SET_SQUELCH` (R5, R64). -/
def cmdSetSquelch : Byte := 0x14

/-- Command byte `GET_SQUELCH` (R5, R64). -/
def cmdGetSquelch : Byte := 0x15

/-- Command byte `SET_MONITOR` (R5, R64). -/
def cmdSetMonitor : Byte := 0x1A

/-- `FREQ_PAYLOAD_LEN` (R5). -/
def freqPayloadLen : Nat := 5

/-- `FREQ_LIMIT`, 10^8 (R5). -/
def freqLimit : Nat := 100000000

/-- FREE VALUE (D23 "After a `TransportError` on write: `OPEN`"; DESIGN CHOICE, assumption log 10): whether
`SET_FREQUENCY` notifies although its write failed, asked for the n-th time. Nothing constrains it. -/
opaque notifyAfterWriteError : Nat → Bool

end Config

end Sys2Proof
end

