-- ==== Sys2Proof/Syntax.lean ====
section
/-! DEFINITION. The operations of the block, one constructor per row of spec/opcode_table.json
(R11: "instruction" = an operation of the block), their formats and encoded forms (R75). -/

namespace Sys2Proof

/-- A Message, the decoded content of a frame (R120, R12). -/
structure Message where
  toAddr   : Byte
  fromAddr : Byte
  command  : Byte
  payload  : Bytes
deriving DecidableEq, Repr

/-- The operations. The frame fields of the RXFRAME rows are named `dst` (ADDRESS_TO) and `src`
(ADDRESS_FROM). -/
inductive Instr where
  -- EVENT (R72)
  | nop
  | push (b : Byte)
  | tick
  | reset
  -- BYTE (R61)
  | endByte
  | startByte
  | dataByte (b : Byte)
  -- RXFRAME (R77, R157)
  | getFrequencyResponse (dst src b0 b1 b2 b3 b4 : Byte)
  | getFrequencyBadlen (dst src : Byte) (payload : Bytes)
  | getSquelchResponse (dst src level : Byte) (rest : Bytes)
  | getSquelchEmpty (dst src : Byte)
  | otherCommand (dst src command : Byte) (payload : Bytes)
  -- TXFRAME (R74)
  | requestFrequency
  | requestSquelch
  | setFrequency (hz : Hz)
  | setMode (m : Byte)
  | setSquelch (v : Byte)
  | setMonitor (m0 m1 : Byte)
  -- INTERNAL (R75)
  | feed (bs : Bytes)
  | extract
  | classify (c : Bytes)
  | idleFlush
  | discardOverflow
  | decFrame (f : Bytes)
  | encFrame (command : Byte) (payload : Bytes)
  | encFreq (hz : Hz)
  | decFreq (b0 b1 b2 b3 b4 : Byte)
  | decSql (p : Bytes)
  | dispatch (m : Message)
  | send (command : Byte) (payload : Bytes)
deriving DecidableEq, Repr

/-- The formats of the opcode table (R75). -/
inductive Format where
  | event
  | byte
  | rxframe
  | txframe
  | internal
deriving DecidableEq, Repr

/-- A word or byte string in which an operation is written down, in one of the four formats that have one
(R75). INTERNAL operations have none. -/
inductive Code where
  /-- An event word, 10 bits (R72). -/
  | event (w : Nat)
  /-- One stream byte (R61). -/
  | byte (b : Byte)
  /-- A whole received frame, first byte first (R60, R77). -/
  | rxframe (f : Bytes)
  /-- A whole transmitted frame, first byte first (R74). -/
  | txframe (f : Bytes)
deriving DecidableEq, Repr

/-- Why a code stands for no operation. -/
inductive DecodeError where
  /-- An event number of more than 10 bits (R72). -/
  | eventWordTooWide
  /-- A non-zero data byte under NOP, TICK or RESET: reserved, "a trace reader refuses them" (R72). -/
  | reservedEventWord
  /-- The bytes are no candidate: they do not end in END, or hold another END (R62). -/
  | notACandidate
  /-- A candidate that is no valid frame: no two START bytes in front, or shorter than 6 (R62). -/
  | notAValidFrame
  /-- The bytes are none of the six transmit frames of R74. -/
  | noSuchTransmitFrame
  /-- A SET_FREQUENCY frame whose five payload bytes `ENC_FREQ` yields for no `hz` (R161, R130). -/
  | notAFrequencyField
deriving DecidableEq, Repr

end Sys2Proof
end

