-- ==== Sys2Proof/Machine/Operands.lean ====
section
/-! DEFINITION. Operand forms: the nibbles of a byte and the decimal digits of a number (R136), the
fields of a frame (R47, R63), the header word (R77), and the two predicates on a candidate (R62). -/

namespace Sys2Proof.Machine

/-- `hi(b) := b >> 4` (R136). -/
def hi (b : Byte) : Nat := (b >>> 4).toNat

/-- `lo(b) := b & 0x0F` (R136). -/
def lo (b : Byte) : Nat := (b &&& 0x0F).toNat

/-- `pack(h, l) := (h << 4) | l` (R136). -/
def pack (h l : Nat) : Byte := (BitVec.ofNat 8 h <<< 4) ||| BitVec.ofNat 8 l

/-- `digit(hz, k)`: the k-th of 8 decimal digits, digit 0 the most significant (R136). -/
def digit (hz k : Nat) : Nat := hz / 10 ^ (7 - k) % 10

/-- `is_bcd(b)`: both nibbles are decimal digits (R136); the premise R135 asks models to expose. -/
def isBcd (b : Byte) : Bool := decide (hi b ≤ 9) && decide (lo b ≤ 9)

/-- `starts_ok(c)` (R62). -/
def startsOk (c : Bytes) : Bool :=
  match c with
  | c0 :: c1 :: _ => decide (c0 = Config.startMark) && decide (c1 = Config.startMark)
  | _ => false

/-- `valid_frame(c)` (R62). -/
def validFrame (c : Bytes) : Bool := startsOk c && decide (Config.minFrameLen ≤ c.length)

/-- `to_address := f[2]` (R63). -/
def toAddress (f : Bytes) : Byte := f.getD 2 0

/-- `from_address := f[3]` (R63). -/
def fromAddress (f : Bytes) : Byte := f.getD 3 0

/-- `command := f[4]` (R63). -/
def commandByte (f : Bytes) : Byte := f.getD 4 0

/-- `payload := f[5 .. n-2]`, `n - 6` bytes (R63). -/
def payloadOf (f : Bytes) : Bytes := (f.drop 5).take (f.length - 6)

/-- The bytes of a string as one number, byte 0 most significant (R75 TXFRAME, R77). -/
def bigEndian (f : Bytes) : Nat := f.foldl (fun v b => v * 256 + b.toNat) 0

/-- The 40-bit header word `H` of a frame (R77). -/
def headerWord (f : Bytes) : Nat := bigEndian (f.take 5)

/-- `plen := len(f) - 6` (R77). -/
def plen (f : Bytes) : Nat := f.length - 6

end Sys2Proof.Machine
end

