-- ==== Sys2Proof/Machine/Codec.lean ====
section
/-! DEFINITION. The pure functions of the message codec and the BCD codec: ENC_FRAME (R121), DEC_FRAME
(R120), ENC_FREQ (R130, R137), DEC_FREQ (R131), DEC_SQL (R132), and the peer's encoder (R138).
They read no state; a raise is the answer `none`, turned into its event by the meanings. -/

namespace Sys2Proof.Machine

/-- `ENC_FRAME(command, payload)` (R121); nothing is checked. -/
def encodeFrame (command : Byte) (payload : Bytes) : Bytes :=
  [Config.startMark, Config.startMark, Config.radioAddr, Config.computerAddr, command] ++ payload ++
    [Config.endMark]

/-- `DEC_FRAME(f)` (R120): only the length is tested; `none` is `MalformedFrameError`. -/
def decodeFrame (f : Bytes) : Option Message :=
  if f.length < Config.minFrameLen then none
  else some { toAddr := toAddress f, fromAddr := fromAddress f, command := commandByte f,
              payload := payloadOf f }

/-- Two decimal digits in one byte: `even` is the digit of the even power of ten, `odd` of the odd one. -/
def packPair (o : NibbleOrder) (even odd : Nat) : Byte :=
  match o with
  | .formula => pack even odd
  | .printedExample => pack odd even

/-- `ENC_FREQ(hz)` (R130): least significant pair first, the fifth byte 0; `none` is `ValueError`. -/
def encodeFreq (o : NibbleOrder) (hz : Hz) : Option Bytes :=
  if Config.freqLimit ≤ hz.toNat then none
  else
    let d := digit hz.toNat
    some [packPair o (d 7) (d 6), packPair o (d 5) (d 4), packPair o (d 3) (d 2),
          packPair o (d 1) (d 0), 0x00]

/-- One iteration of `DEC_FREQ`: `value * 100 + hi(p[i]) * 10 + lo(p[i])` (R131). -/
def accumulate (value : Nat) (b : Byte) : Nat := value * 100 + hi b * 10 + lo b

/-- `DEC_FREQ(p)` on unbounded naturals (R131, R8). -/
def freqValue (p : Bytes) : Nat := p.foldl accumulate 0

/-- `DEC_FREQ(p)` on the `HZ_W`-bit port; no 5 bytes overflow it (R134 (b)). -/
def decodeFreq (p : Bytes) : Hz := BitVec.ofNat 34 (freqValue p)

/-- `DEC_SQL(p)` (R132): `payload[0]`; `none` is `EmptyPayloadError`. -/
def decodeSquelch (p : Bytes) : Option Byte := p.head?

/-- What a peer must send for the router to report `v` (R138); not part of the block. -/
def peerFreq (v : Nat) : Bytes :=
  [pack (v / 10 ^ 9 % 10) (v / 10 ^ 8 % 10), pack (v / 10 ^ 7 % 10) (v / 10 ^ 6 % 10),
   pack (v / 10 ^ 5 % 10) (v / 10 ^ 4 % 10), pack (v / 10 ^ 3 % 10) (v / 10 ^ 2 % 10),
   pack (v / 10 ^ 1 % 10) (v / 10 ^ 0 % 10)]

/-- The two digits of a byte that `packPair` made, as a number below 100. -/
def unpackPair (o : NibbleOrder) (b : Byte) : Nat :=
  match o with
  | .formula => lo b * 10 + hi b
  | .printedExample => hi b * 10 + lo b

/-- The `hz` whose `ENC_FREQ` is the field `p`, if there is one: the reading of a SET_FREQUENCY frame
(DEDUCED, assumption log 15). -/
def freqOfField (o : NibbleOrder) (p : Bytes) : Option Hz :=
  match p with
  | [b0, b1, b2, b3, _] =>
      let hz := BitVec.ofNat 34 (unpackPair o b0 + 100 * unpackPair o b1 + 10000 * unpackPair o b2 +
        1000000 * unpackPair o b3)
      if encodeFreq o hz = some p then some hz else none
  | _ => none

end Sys2Proof.Machine
end

