-- ==== Sys2Proof/WellFormed.lean ====
section
/-! DEFINITION. Which operands an operation can have: the byte class of DATA (R61), the payload
conditions of the RXFRAME rows (opcode_table.json `cond`, R75), the END-free fields of a valid frame
(R62, R70 (a)), and the candidate that CLASSIFY takes (R102). -/

namespace Sys2Proof

/-- No byte of the string is END. -/
def endFree (bs : Bytes) : Bool := !bs.contains Config.endMark

/-- R62: a candidate ends with END and has no other END in it. -/
def isCandidate (c : Bytes) : Bool :=
  decide (c.getLast? = some Config.endMark) && endFree c.dropLast

/-- The checks on the operands of an operation. -/
def Instr.wf : Instr → Bool
  | .nop => true
  | .push _ => true
  | .tick => true
  | .reset => true
  | .endByte => true
  | .startByte => true
  | .dataByte b => decide (b ≠ Config.endMark) && decide (b ≠ Config.startMark)
  | .getFrequencyResponse dst src b0 b1 b2 b3 b4 => endFree [dst, src, b0, b1, b2, b3, b4]
  | .getFrequencyBadlen dst src payload =>
      endFree (dst :: src :: payload) && decide (payload.length ≠ Config.freqPayloadLen)
  | .getSquelchResponse dst src level rest => endFree (dst :: src :: level :: rest)
  | .getSquelchEmpty dst src => endFree [dst, src]
  | .otherCommand dst src command payload =>
      endFree (dst :: src :: command :: payload) &&
        (decide (command ≠ Config.cmdGetFrequency) && decide (command ≠ Config.cmdGetSquelch))
  | .requestFrequency => true
  | .requestSquelch => true
  | .setFrequency _ => true
  | .setMode _ => true
  | .setSquelch _ => true
  | .setMonitor _ _ => true
  | .feed _ => true
  | .extract => true
  | .classify c => isCandidate c
  | .idleFlush => true
  | .discardOverflow => true
  | .decFrame _ => true
  | .encFrame _ _ => true
  | .encFreq _ => true
  | .decFreq _ _ _ _ _ => true
  | .decSql _ => true
  | .dispatch _ => true
  | .send _ _ => true

end Sys2Proof
end

