-- ==== Sys2Proof/Decode.lean ====
section
/-! DEFINITION. The decoder, total on every code and rejecting by name, and the encoder, both from the
encodings of spec/30_encoding.md (R61, R72, R74, R75, R77) and spec/opcode_table.json. -/

namespace Sys2Proof

/-- The format of an operation's row in the opcode table (R75). -/
def Instr.format : Instr → Format
  | .nop => .event
  | .push _ => .event
  | .tick => .event
  | .reset => .event
  | .endByte => .byte
  | .startByte => .byte
  | .dataByte _ => .byte
  | .getFrequencyResponse _ _ _ _ _ _ _ => .rxframe
  | .getFrequencyBadlen _ _ _ => .rxframe
  | .getSquelchResponse _ _ _ _ => .rxframe
  | .getSquelchEmpty _ _ => .rxframe
  | .otherCommand _ _ _ _ => .rxframe
  | .requestFrequency => .txframe
  | .requestSquelch => .txframe
  | .setFrequency _ => .txframe
  | .setMode _ => .txframe
  | .setSquelch _ => .txframe
  | .setMonitor _ _ => .txframe
  | .feed _ => .internal
  | .extract => .internal
  | .classify _ => .internal
  | .idleFlush => .internal
  | .discardOverflow => .internal
  | .decFrame _ => .internal
  | .encFrame _ _ => .internal
  | .encFreq _ => .internal
  | .decFreq _ _ _ _ _ => .internal
  | .decSql _ => .internal
  | .dispatch _ => .internal
  | .send _ _ => .internal

/-- The format a code is written in. -/
def Code.format : Code → Format
  | .event _ => .event
  | .byte _ => .byte
  | .rxframe _ => .rxframe
  | .txframe _ => .txframe

/-- An event word: `ev[9:8]` the kind, `ev[7:0]` the data, which must be 0 but for PUSH (R72). -/
def decodeEvent (w : Nat) : Except DecodeError Instr :=
  if 1024 ≤ w then .error .eventWordTooWide
  else if w / 256 = 1 then .ok (.push (BitVec.ofNat 8 (w % 256)))
  else if w % 256 ≠ 0 then .error .reservedEventWord
  else if w / 256 = 0 then .ok .nop
  else if w / 256 = 2 then .ok .tick
  else .ok .reset

/-- A stream byte: END, then START, then DATA, in the table's order (R61, R75). -/
def decodeByte (b : Byte) : Instr :=
  if b = Config.endMark then .endByte
  else if b = Config.startMark then .startByte
  else .dataByte b

/-- The RXFRAME row of a message: the router's decision on the command and `plen` (R77, R157). -/
def rowOfMessage (m : Message) : Instr :=
  if m.command = Config.cmdGetFrequency then
    match m.payload with
    | [b0, b1, b2, b3, b4] => .getFrequencyResponse m.toAddr m.fromAddr b0 b1 b2 b3 b4
    | p => .getFrequencyBadlen m.toAddr m.fromAddr p
  else if m.command = Config.cmdGetSquelch then
    match m.payload with
    | [] => .getSquelchEmpty m.toAddr m.fromAddr
    | v :: rest => .getSquelchResponse m.toAddr m.fromAddr v rest
  else .otherCommand m.toAddr m.fromAddr m.command m.payload

/-- A received frame: a candidate (R62) that is a valid frame, read by its header and payload. -/
def decodeRx (f : Bytes) : Except DecodeError Instr :=
  if isCandidate f = false then .error .notACandidate
  else if Machine.validFrame f = false then .error .notAValidFrame
  else
    match Machine.decodeFrame f with
    | some m => .ok (rowOfMessage m)
    | none => .error .notAValidFrame

/-- The transmit frame with this command byte and payload (R74): one shape for each command. -/
def decodeTxFields (o : NibbleOrder) (command : Byte) (payload : Bytes) : Except DecodeError Instr :=
  if command = Config.cmdGetFrequency then
    match payload with
    | [] => .ok .requestFrequency
    | _ => .error .noSuchTransmitFrame
  else if command = Config.cmdGetSquelch then
    match payload with
    | [] => .ok .requestSquelch
    | _ => .error .noSuchTransmitFrame
  else if command = Config.cmdSetFrequency then
    if payload.length = Config.freqPayloadLen then
      match Machine.freqOfField o payload with
      | some hz => .ok (.setFrequency hz)
      | none => .error .notAFrequencyField
    else .error .noSuchTransmitFrame
  else if command = Config.cmdSetMode then
    match payload with
    | [m] => .ok (.setMode m)
    | _ => .error .noSuchTransmitFrame
  else if command = Config.cmdSetSquelch then
    match payload with
    | [v] => .ok (.setSquelch v)
    | _ => .error .noSuchTransmitFrame
  else if command = Config.cmdSetMonitor then
    match payload with
    | [m0, m1] => .ok (.setMonitor m0 m1)
    | _ => .error .noSuchTransmitFrame
  else .error .noSuchTransmitFrame

/-- A transmitted frame: the bytes must be what ENC_FRAME makes of its own command and payload (R121),
and these one of the six frames of R74. -/
def decodeTx (o : NibbleOrder) (f : Bytes) : Except DecodeError Instr :=
  match Machine.decodeFrame f with
  | none => .error .noSuchTransmitFrame
  | some m =>
      if f = Machine.encodeFrame m.command m.payload then decodeTxFields o m.command m.payload
      else .error .noSuchTransmitFrame

/-- The operation a code stands for. The nibble order is the machine's parameter (U2): it tells which
`hz` a SET_FREQUENCY frame was made from. -/
def decode (o : NibbleOrder) : Code → Except DecodeError Instr
  | .event w => decodeEvent w
  | .byte b => .ok (decodeByte b)
  | .rxframe f => decodeRx f
  | .txframe f => decodeTx o f

/-- The bytes of a received frame with these fields (R60). -/
def rxBytes (dst src command : Byte) (payload : Bytes) : Bytes :=
  [Config.startMark, Config.startMark, dst, src, command] ++ payload ++ [Config.endMark]

/-- The code of a well-formed operation; `none` for the INTERNAL operations, which have no word (R75), and
for a SET_FREQUENCY that `ENC_FREQ` rejects, for which no frame exists (R161, R74 "or `ValueError`"). These
run when they are called (`Input.call`). -/
def encode (o : NibbleOrder) : Instr → Option Code
  | .nop => some (.event 0x000)
  | .push b => some (.event (0x100 + b.toNat))
  | .tick => some (.event 0x200)
  | .reset => some (.event 0x300)
  | .endByte => some (.byte Config.endMark)
  | .startByte => some (.byte Config.startMark)
  | .dataByte b => some (.byte b)
  | .getFrequencyResponse dst src b0 b1 b2 b3 b4 =>
      some (.rxframe (rxBytes dst src Config.cmdGetFrequency [b0, b1, b2, b3, b4]))
  | .getFrequencyBadlen dst src payload =>
      some (.rxframe (rxBytes dst src Config.cmdGetFrequency payload))
  | .getSquelchResponse dst src level rest =>
      some (.rxframe (rxBytes dst src Config.cmdGetSquelch (level :: rest)))
  | .getSquelchEmpty dst src => some (.rxframe (rxBytes dst src Config.cmdGetSquelch []))
  | .otherCommand dst src command payload => some (.rxframe (rxBytes dst src command payload))
  | .requestFrequency => some (.txframe (Machine.encodeFrame Config.cmdGetFrequency []))
  | .requestSquelch => some (.txframe (Machine.encodeFrame Config.cmdGetSquelch []))
  | .setFrequency hz =>
      (Machine.encodeFreq o hz).map fun p => .txframe (Machine.encodeFrame Config.cmdSetFrequency p)
  | .setMode m => some (.txframe (Machine.encodeFrame Config.cmdSetMode [m]))
  | .setSquelch v => some (.txframe (Machine.encodeFrame Config.cmdSetSquelch [v]))
  | .setMonitor m0 m1 => some (.txframe (Machine.encodeFrame Config.cmdSetMonitor [m0, m1]))
  | .feed _ => none
  | .extract => none
  | .classify _ => none
  | .idleFlush => none
  | .discardOverflow => none
  | .decFrame _ => none
  | .encFrame _ _ => none
  | .encFreq _ => none
  | .decFreq _ _ _ _ _ => none
  | .decSql _ => none
  | .dispatch _ => none
  | .send _ _ => none

/-- One row of the opcode table: its word's width, `match`, `mask`, and `fields.cond` (R75). -/
structure OpcodeRow where
  mnemonic : String
  format   : Format
  bits     : Nat
  pattern  : Nat
  mask     : Nat
  cond     : Nat → Bool

/-- The rows of opcode_table.json that have a word, in the order listed. -/
def opcodeTable : List OpcodeRow :=
  [ { mnemonic := "NOP", format := .event, bits := 10, pattern := 0x000, mask := 0x3FF, cond := fun _ => true },
    { mnemonic := "PUSH", format := .event, bits := 10, pattern := 0x100, mask := 0x300, cond := fun _ => true },
    { mnemonic := "TICK", format := .event, bits := 10, pattern := 0x200, mask := 0x3FF, cond := fun _ => true },
    { mnemonic := "RESET", format := .event, bits := 10, pattern := 0x300, mask := 0x3FF, cond := fun _ => true },
    { mnemonic := "END", format := .byte, bits := 8, pattern := 0xFD, mask := 0xFF, cond := fun _ => true },
    { mnemonic := "START", format := .byte, bits := 8, pattern := 0xFE, mask := 0xFF, cond := fun _ => true },
    { mnemonic := "DATA", format := .byte, bits := 8, pattern := 0x00, mask := 0x00, cond := fun _ => true } ] ++
  [ { mnemonic := "GET_FREQUENCY.response", format := .rxframe, bits := 40, pattern := 0xFEFE000003,
      mask := 0xFFFF0000FF, cond := fun n => decide (n = 5) },
    { mnemonic := "GET_FREQUENCY.badlen", format := .rxframe, bits := 40, pattern := 0xFEFE000003,
      mask := 0xFFFF0000FF, cond := fun n => decide (n ≠ 5) },
    { mnemonic := "GET_SQUELCH.response", format := .rxframe, bits := 40, pattern := 0xFEFE000015,
      mask := 0xFFFF0000FF, cond := fun n => decide (1 ≤ n) },
    { mnemonic := "GET_SQUELCH.empty", format := .rxframe, bits := 40, pattern := 0xFEFE000015,
      mask := 0xFFFF0000FF, cond := fun n => decide (n = 0) },
    { mnemonic := "OTHER_COMMAND", format := .rxframe, bits := 40, pattern := 0xFEFE000000,
      mask := 0xFFFF000000, cond := fun _ => true } ] ++
  [ { mnemonic := "REQUEST_FREQUENCY", format := .txframe, bits := 48, pattern := 0xFEFEE00003FD,
      mask := 0xFFFFFFFFFFFF, cond := fun _ => true },
    { mnemonic := "REQUEST_SQUELCH", format := .txframe, bits := 48, pattern := 0xFEFEE00015FD,
      mask := 0xFFFFFFFFFFFF, cond := fun _ => true },
    { mnemonic := "SET_FREQUENCY", format := .txframe, bits := 88, pattern := 0xFEFEE000050000000000FD,
      mask := 0xFFFFFFFFFF0000000000FF, cond := fun _ => true },
    { mnemonic := "SET_MODE", format := .txframe, bits := 56, pattern := 0xFEFEE0000600FD,
      mask := 0xFFFFFFFFFF00FF, cond := fun _ => true },
    { mnemonic := "SET_SQUELCH", format := .txframe, bits := 56, pattern := 0xFEFEE0001400FD,
      mask := 0xFFFFFFFFFF00FF, cond := fun _ => true },
    { mnemonic := "SET_MONITOR", format := .txframe, bits := 64, pattern := 0xFEFEE0001A0000FD,
      mask := 0xFFFFFFFFFF0000FF, cond := fun _ => true } ]

/-- The mnemonic of the first row of the format, of this width, that the word (and `plen`) selects:
`w & mask = match` and `fields.cond` (R75). -/
def selectRow (format : Format) (bits w plen : Nat) : Option String :=
  (opcodeTable.find? fun r =>
    decide (r.format = format) && (decide (r.bits = bits) && (decide (w &&& r.mask = r.pattern) && r.cond plen))).map
    OpcodeRow.mnemonic

/-- The row that R75 selects for a code. -/
def Code.selectedRow : Code → Option String
  | .event w => selectRow .event 10 w 0
  | .byte b => selectRow .byte 8 b.toNat 0
  | .rxframe f => selectRow .rxframe 40 (Machine.headerWord f) (Machine.plen f)
  | .txframe f => selectRow .txframe (8 * f.length) (Machine.bigEndian f) 0

/-- The name of an operation's row in the opcode table. -/
def Instr.mnemonic : Instr → String
  | .nop => "NOP"
  | .push _ => "PUSH"
  | .tick => "TICK"
  | .reset => "RESET"
  | .endByte => "END"
  | .startByte => "START"
  | .dataByte _ => "DATA"
  | .getFrequencyResponse _ _ _ _ _ _ _ => "GET_FREQUENCY.response"
  | .getFrequencyBadlen _ _ _ => "GET_FREQUENCY.badlen"
  | .getSquelchResponse _ _ _ _ => "GET_SQUELCH.response"
  | .getSquelchEmpty _ _ => "GET_SQUELCH.empty"
  | .otherCommand _ _ _ _ => "OTHER_COMMAND"
  | .requestFrequency => "REQUEST_FREQUENCY"
  | .requestSquelch => "REQUEST_SQUELCH"
  | .setFrequency _ => "SET_FREQUENCY"
  | .setMode _ => "SET_MODE"
  | .setSquelch _ => "SET_SQUELCH"
  | .setMonitor _ _ => "SET_MONITOR"
  | .feed _ => "FEED"
  | .extract => "EXTRACT"
  | .classify _ => "CLASSIFY"
  | .idleFlush => "IDLE_FLUSH"
  | .discardOverflow => "DISCARD_OVERFLOW"
  | .decFrame _ => "DEC_FRAME"
  | .encFrame _ _ => "ENC_FRAME"
  | .encFreq _ => "ENC_FREQ"
  | .decFreq _ _ _ _ _ => "DEC_FREQ"
  | .decSql _ => "DEC_SQL"
  | .dispatch _ => "DISPATCH"
  | .send _ _ => "SEND"

/-- The `n` low bytes of a number, the most significant first (R75: byte 0 of a frame is the most
significant byte of its number). -/
def bytesOfNat : Nat → Nat → Bytes
  | 0, _ => []
  | n + 1, w => BitVec.ofNat 8 (w / 256 ^ n) :: bytesOfNat n w

/-- The code that a table word of `nbits` bits (in whole bytes, so 16 for an event word) stands for.
A 40-bit header word says nothing of the payload: it is completed by operand words of zeros, five of
them, for which the first row listed for each header holds, and by END (DESIGN CHOICE, assumption log 14). -/
def codeOfTableWord (nbits w : Nat) : Code :=
  if nbits = 8 then .byte (BitVec.ofNat 8 w)
  else if nbits = 10 then .event w
  else if nbits = 16 then .event w
  else if nbits = 40 then .rxframe (bytesOfNat 5 w ++ [0, 0, 0, 0, 0] ++ [Config.endMark])
  else .txframe (bytesOfNat (nbits / 8) w)

/-- The operation the decoder reads from a table word (R75), under the standard parameters. -/
def decodeTableWord (nbits w : Nat) : Option Instr :=
  match decode Config.standard.txOrder (codeOfTableWord nbits w) with
  | .ok i => some i
  | .error _ => none

end Sys2Proof
end

