-- ==== Sys2Proof/Machine/State.lean ====
section
/-! DEFINITION. The machine's state as plain data (R20, R30, and the model's own fields), its faults and
refusals, and its reset (R31, R210, R211). -/

namespace Sys2Proof.Machine

/-- The StreamBuffer (R21): bytes received and not yet consumed or discarded, index 0 the oldest. It has
no holes and no addresses beyond its indices (R32), so a byte list is its one form (DESIGN CHOICE, assumption log 4). -/
abbrev Memory := Bytes

/-- The form of the StreamBuffer between any two events: no END in it (R23) and no more bytes than its
depth (R22). -/
def Memory.wf (depth : Option Nat) (m : Memory) : Bool :=
  !m.contains Config.endMark && (match depth with
    | none => true
    | some d => decide (m.length ≤ d))

/-- The names of the diagnostic codes (R73); their numbers are `DiagCode.number` in Ops.lean. -/
inductive DiagCode where
  | discardText
  | discardMalformed
  | idleFlush
  | payloadLength
  | emptyPayload
  | valueError
  | discardOverflow
  | transportError
deriving DecidableEq, Repr

/-- The output events of the receive agent (R30). -/
inductive OutEvent where
  /-- A valid frame was cut from the stream. -/
  | frame (bytes : Bytes)
  /-- Call of `on_frequency_update(v)` (R151). -/
  | freqUpdate (v : Hz)
  /-- Call of `on_squelch_update(v)` (R151). -/
  | sqlUpdate (v : Byte)
  /-- The log: something was discarded; `n` is a length (R73). -/
  | diag (code : DiagCode) (n : Nat)
deriving DecidableEq, Repr

/-- What an operation hands back to its caller. -/
inductive Reply where
  /-- A byte string: ENC_FRAME, ENC_FREQ, EXTRACT. -/
  | bytes (bs : Bytes)
  /-- A Message: DEC_FRAME. -/
  | message (m : Message)
  /-- A frequency: DEC_FREQ. -/
  | frequency (v : Hz)
  /-- A squelch level: DEC_SQL. -/
  | level (v : Byte)
  /-- `Ok` of Transport.write (R168). -/
  | written
  /-- An error returned to the caller: `ValueError` (R183) or `TransportError` (R184). -/
  | error (code : DiagCode)
deriving DecidableEq, Repr

/-- Where the Transport fails: "any I/O failure on open/write/read" (R171). -/
inductive IoSide where
  | onOpen
  | onRead
  | onWrite
deriving DecidableEq, Repr

/-- One input of the machine. -/
inductive Input where
  /-- An operation to run, written in its word or its bytes. -/
  | code (c : Code)
  /-- A call of an operation, with its operands: the one way to run an operation that has no word, and
  another way to run one that has (DESIGN CHOICE, assumption log 17). -/
  | call (i : Instr)
  /-- The Transport fails for good (R171, R184). -/
  | ioFailure (side : IoSide)
deriving DecidableEq, Repr

/-- The whole state. `buf`, `idleCnt` and `ovf` are the triple of R20. -/
@[ext]
structure State where
  /-- The parameters (R6, U2); fixed for a machine, written by nothing. -/
  cfg        : Config
  /-- `buf`, the StreamBuffer (R21). -/
  buf        : Memory
  /-- `idle_cnt` (R24). -/
  idleCnt    : Nat
  /-- `ovf` (R25). -/
  ovf        : Bool
  /-- The receive agent's output stream, oldest first (R30). -/
  out        : List OutEvent
  /-- The frames the command agent has written through Transport.write, oldest first (R168). -/
  written    : List Bytes
  /-- The command agent's optimistic `FREQ_UPDATE`s, oldest first (R161). They stand in no order with
  `written` or with `out` (R161, R52; DESIGN CHOICE, assumption log 11). -/
  cmdUpdates : List Hz
  /-- The model's own: what operations have handed back to their callers, oldest first (DESIGN CHOICE,
  assumption log 18). -/
  replies    : List Reply
  /-- The write side of the line has failed; "there is no automatic reconnect" (R171; DESIGN CHOICE,
  assumption log 9). -/
  lineFailed : Bool
  /-- The reader loop has ended: "a read failure ends the reader loop" (R171; DESIGN CHOICE, assumption
  log 9). -/
  readerEnded : Bool
  /-- The model's own: how many free values have been used (DESIGN CHOICE, assumption log 10). -/
  choice     : Nat
  /-- The model's own: the inputs the environment offers, not yet consumed, next first (DESIGN CHOICE,
  assumption log 1). -/
  pending    : List Input
deriving DecidableEq, Repr

/-- Why the machine stops. -/
inductive Fault where
  /-- EXTRACT, invoked where the buffer holds no END: "Pre: `has_end()`" (R101), and `first_index` is
  "defined only when `v` occurs in `s`" (R9; DEDUCED, assumption log 5). Raised by execExtract. Safe: the model stops where the
  spec defines nothing; FEED never invokes it so. -/
  | extractWithoutEnd
deriving DecidableEq, Repr

/-- Why an input is given no meaning. -/
inductive Refusal where
  /-- The operation has no meaning yet. Raised by exec's refused arms. Safe: the model stops. -/
  | notModelled (mnemonic : String)
  /-- The input stands for no operation (R72 "a trace reader refuses them"; R75; DEDUCED,
  assumption log 16). Raised by step.
  Safe: the model stops where the spec names no operation. -/
  | undecodable (why : DecodeError)
deriving DecidableEq, Repr

/-- The machine right after reset and at power-on (R31, R211): the triple as the spec says, the
parameters at the values R6 takes, and, DESIGN CHOICE, an open line with its reader loop running, nothing
written or answered and no input offered (assumption log 1, 2, 9, 10). -/
def State.reset : State :=
  { cfg := Config.standard, buf := [], idleCnt := 0, ovf := false, out := [], written := [],
    cmdUpdates := [], replies := [], lineFailed := false, readerEnded := false, choice := 0, pending := [] }

end Sys2Proof.Machine
end

