-- ==== Sys2Proof/Machine/Flags.lean ====
section
/-! DEFINITION. The flag-like state (R28): the derived `armed` (R24), the room test that sets `ovf`
(R22, R25), and the expiry test of the idle timer (R105). -/

namespace Sys2Proof.Machine

/-- `armed := (buf != [])` (R24). -/
def State.armed (s : State) : Bool := decide (s.buf ≠ [])

/-- `BUF_DEPTH = none or len(buf) < BUF_DEPTH` (R103). -/
def State.hasRoom (s : State) : Bool :=
  match s.cfg.bufDepth with
  | none => true
  | some d => decide (s.buf.length < d)

/-- `idle_cnt + 1 = IDLE_TICKS` (R105). -/
def State.expires (s : State) : Bool := decide (s.idleCnt + 1 = s.cfg.idleTicks)

end Sys2Proof.Machine
end

