-- ==== Sys2Proof/Machine/Ops.lean ====
section
/-! DEFINITION. The named operations over the buffer (R40), the output stream (R9 `emit`), errors (R9
`raise`, R190), the callers, and Transport.write (R168, R171). -/

namespace Sys2Proof.Machine

/-- The numbers of the diagnostic codes (R73). -/
def DiagCode.number : DiagCode → Nat
  | .discardText => 1
  | .discardMalformed => 2
  | .idleFlush => 3
  | .payloadLength => 4
  | .emptyPayload => 5
  | .valueError => 6
  | .discardOverflow => 7
  | .transportError => 8

/-- `append(b)` (R40). -/
def Memory.append (m : Memory) (b : Byte) : Memory := m ++ [b]

/-- `has_end()` (R40). -/
def Memory.hasEnd (m : Memory) : Bool := m.contains Config.endMark

/-- `first_end()` (R40): the least index of END; defined only when `has_end()`. -/
def Memory.firstEnd (m : Memory) : Nat := m.findIdx (· == Config.endMark)

/-- `take_drop(i)` (R40): the prefix `buf[0..i]` and what is left. -/
def Memory.takeDrop (m : Memory) (i : Nat) : Bytes × Memory := (m.take (i + 1), m.drop (i + 1))

/-- `clear()` (R40). -/
def Memory.clear : Memory := []

/-- `MemRead(addr, n)` (R9): `buf[addr .. addr+n-1]`, defined only when `addr + n <= len(buf)`. -/
def Memory.read (m : Memory) (addr n : Nat) : Option Bytes :=
  if addr + n ≤ m.length then some ((m.drop addr).take n) else none

/-- `emit E(args)` (R9), several events in order. -/
def State.emitAll (s : State) (es : List OutEvent) : State := { s with out := s.out ++ es }

/-- `emit E(args)` (R9). -/
def State.emit (s : State) (e : OutEvent) : State := s.emitAll [e]

/-- Taking an error inside the block (`raise X(info)`, R9, R190): one DIAG event and no other change.
Nothing is saved and control goes nowhere special; processing continues with the next candidate or
event (R191), so there is no return operation. -/
def State.raise (s : State) (code : DiagCode) (n : Nat) : State := s.emit (.diag code n)

/-- Hand a value or an error back to the caller of an operation. -/
def State.answer (s : State) (r : Reply) : State := { s with replies := s.replies ++ [r] }

/-- An error that reaches a caller (R183, R184): not put on the DIAG stream. -/
def State.raiseToCaller (s : State) (code : DiagCode) : State := s.answer (.error code)

/-- Empty the buffer: with it the timer stops and `ovf` is cleared (R24, R25, R107). -/
def State.emptied (s : State) : State :=
  { s with buf := Memory.clear, idleCnt := 0, ovf := false }

/-- `Transport.write(f)` (R168): the frame is written whole; on a failed line `TransportError` is
surfaced to the caller and nothing else happens (R171). -/
def State.transportWrite (s : State) (f : Bytes) : State :=
  if s.lineFailed then s.raiseToCaller .transportError
  else { s with written := s.written ++ [f] }.answer .written

/-- An I/O failure of the Transport (R171, R184). On read or open it is surfaced to the caller at once, and
the reader loop ends or never runs; on write it is the next `Transport.write` that meets it and surfaces it.
None of them changes the triple. -/
def State.ioFails (s : State) : IoSide → State
  | .onOpen => { s with lineFailed := true, readerEnded := true }.raiseToCaller .transportError
  | .onRead => { s with readerEnded := true }.raiseToCaller .transportError
  | .onWrite => { s with lineFailed := true }

/-- The command agent's optimistic local update (R161). -/
def State.notify (s : State) (hz : Hz) : State := { s with cmdUpdates := s.cmdUpdates ++ [hz] }

/-- Take the next free value as a choice between notifying and not (D23; DESIGN CHOICE, assumption log 10). -/
def State.notifyOrNot (s : State) (hz : Hz) : State :=
  let s' := { s with choice := s.choice + 1 }
  if Config.notifyAfterWriteError s.choice then s'.notify hz else s'

/-- What the receive agent's consumers see of the output stream (R30, D27): the handler calls, in order;
it is also the content of the hand-off queue as the agent fills it (R52). -/
def callerView (es : List OutEvent) : List OutEvent :=
  es.filter fun e =>
    match e with
    | .frame _ => false
    | .freqUpdate _ => true
    | .sqlUpdate _ => true
    | .diag _ _ => false

end Sys2Proof.Machine
end

