-- ==== Sys2Proof/Machine/BcdCodec.lean ====
section
/-! DEFINITION. ENC_FREQ (R130), DEC_FREQ (R131) and DEC_SQL (R132) as operations: the value goes to the
caller. -/

namespace Sys2Proof.Machine

/-- ENC_FREQ (R130): `ValueError` goes to the caller and nowhere else (R183). -/
def execEncFreq (hz : Hz) (s : State) : Host.Outcome State Fault Refusal :=
  match encodeFreq s.cfg.txOrder hz with
  | some p => .next (s.answer (.bytes p))
  | none => .next (s.raiseToCaller .valueError)

/-- DEC_FREQ (R131) of exactly five bytes; total on all of them (R135). -/
def execDecFreq (b0 b1 b2 b3 b4 : Byte) (s : State) : Host.Outcome State Fault Refusal :=
  .next (s.answer (.frequency (decodeFreq [b0, b1, b2, b3, b4])))

/-- DEC_SQL (R132): `EmptyPayloadError` is one DIAG. -/
def execDecSql (p : Bytes) (s : State) : Host.Outcome State Fault Refusal :=
  match decodeSquelch p with
  | some v => .next (s.answer (.level v))
  | none => .next (s.raise .emptyPayload 0)

end Sys2Proof.Machine
end

