-- ==== Sys2Proof/Machine/Command.lean ====
section
/-! DEFINITION. The command agent (spec/44_command_ops.md): SEND and the six composed transmit operations.
None reads or writes the receive agent's state or waits for a response (R160). -/

namespace Sys2Proof.Machine

/-- `SEND(command, payload)` (R160): ENC_FRAME, then Transport.write. -/
def State.sendFrame (s : State) (command : Byte) (payload : Bytes) : State :=
  s.transportWrite (encodeFrame command payload)

/-- SEND (R160). -/
def execSend (command : Byte) (payload : Bytes) (s : State) : Host.Outcome State Fault Refusal :=
  .next (s.sendFrame command payload)

/-- REQUEST_FREQUENCY (R162): a query frame. -/
def execRequestFrequency (s : State) : Host.Outcome State Fault Refusal :=
  .next (s.sendFrame Config.cmdGetFrequency [])

/-- REQUEST_SQUELCH (R165): a query frame. -/
def execRequestSquelch (s : State) : Host.Outcome State Fault Refusal :=
  .next (s.sendFrame Config.cmdGetSquelch [])

/-- SET_FREQUENCY (R161): `ValueError` abandons it before any write or notification (D23). Otherwise the
frame is written and `FREQ_UPDATE(hz)` notified, in no fixed order; whether a failed write still
notifies is open (D23) and a free value (DESIGN CHOICE, assumption log 10). -/
def execSetFrequency (hz : Hz) (s : State) : Host.Outcome State Fault Refusal :=
  match encodeFreq s.cfg.txOrder hz with
  | none => .next (s.raiseToCaller .valueError)
  | some p =>
      if s.lineFailed then .next ((s.sendFrame Config.cmdSetFrequency p).notifyOrNot hz)
      else .next ((s.sendFrame Config.cmdSetFrequency p).notify hz)

/-- SET_MODE (R163): any byte is sent as given (R65). -/
def execSetMode (m : Byte) (s : State) : Host.Outcome State Fault Refusal :=
  .next (s.sendFrame Config.cmdSetMode [m])

/-- SET_SQUELCH (R164): any byte is sent as given. -/
def execSetSquelch (v : Byte) (s : State) : Host.Outcome State Fault Refusal :=
  .next (s.sendFrame Config.cmdSetSquelch [v])

/-- SET_MONITOR (R166): the two bytes of the open parameter MONITOR_PAYLOAD (R69, D19) are its operands
(DESIGN CHOICE, assumption log 8). -/
def execSetMonitor (m0 m1 : Byte) (s : State) : Host.Outcome State Fault Refusal :=
  .next (s.sendFrame Config.cmdSetMonitor [m0, m1])

end Sys2Proof.Machine
end

