-- ==== Sys2Proof/Machine/MessageCodec.lean ====
section
/-! DEFINITION. DEC_FRAME (R120) and ENC_FRAME (R121) as operations: the value goes to the caller. -/

namespace Sys2Proof.Machine

/-- DEC_FRAME (R120): `MalformedFrameError` is one DIAG with the length found. -/
def execDecFrame (f : Bytes) (s : State) : Host.Outcome State Fault Refusal :=
  match decodeFrame f with
  | some m => .next (s.answer (.message m))
  | none => .next (s.raise .discardMalformed f.length)

/-- ENC_FRAME (R121): never an error. -/
def execEncFrame (command : Byte) (payload : Bytes) (s : State) : Host.Outcome State Fault Refusal :=
  .next (s.answer (.bytes (encodeFrame command payload)))

end Sys2Proof.Machine
end

