-- ==== Sys2Proof/Machine/Router.lean ====
section
/-! DEFINITION. The router (spec/43_dispatcher.md): DISPATCH, and the five RXFRAME rows, each the router's
action on a valid frame with those fields (R75, R157). None reads or writes the buffer (R150, R156).
That a row is the router's part alone, without FRAME, is DEDUCED (assumption log 12). -/

namespace Sys2Proof.Machine

/-- What the router emits on a message (R150, R157): it looks at the command and the payload's length
only; at most one event. -/
def routeEvents (m : Message) : List OutEvent :=
  if m.command = Config.cmdGetFrequency then
    if m.payload.length = Config.freqPayloadLen then [.freqUpdate (decodeFreq m.payload)]
    else [.diag .payloadLength m.payload.length]
  else if m.command = Config.cmdGetSquelch then
    match decodeSquelch m.payload with
    | some v => [.sqlUpdate v]
    | none => [.diag .emptyPayload 0]
  else []

/-- `DISPATCH(m)` on the state. -/
def State.dispatch (s : State) (m : Message) : State := s.emitAll (routeEvents m)

/-- DISPATCH (R150). -/
def execDispatch (m : Message) (s : State) : Host.Outcome State Fault Refusal := .next (s.dispatch m)

/-- GET_FREQUENCY.response (R150): command 0x03, five payload bytes. -/
def execGetFrequencyResponse (dst src b0 b1 b2 b3 b4 : Byte) (s : State) :
    Host.Outcome State Fault Refusal :=
  .next (s.dispatch { toAddr := dst, fromAddr := src, command := Config.cmdGetFrequency,
                      payload := [b0, b1, b2, b3, b4] })

/-- GET_FREQUENCY.badlen (R153): command 0x03, another payload length. -/
def execGetFrequencyBadlen (dst src : Byte) (payload : Bytes) (s : State) :
    Host.Outcome State Fault Refusal :=
  .next (s.dispatch { toAddr := dst, fromAddr := src, command := Config.cmdGetFrequency, payload := payload })

/-- GET_SQUELCH.response (R150): command 0x15, at least one payload byte. -/
def execGetSquelchResponse (dst src level : Byte) (rest : Bytes) (s : State) :
    Host.Outcome State Fault Refusal :=
  .next (s.dispatch { toAddr := dst, fromAddr := src, command := Config.cmdGetSquelch,
                      payload := level :: rest })

/-- GET_SQUELCH.empty (R153): command 0x15, empty payload. -/
def execGetSquelchEmpty (dst src : Byte) (s : State) : Host.Outcome State Fault Refusal :=
  .next (s.dispatch { toAddr := dst, fromAddr := src, command := Config.cmdGetSquelch, payload := [] })

/-- OTHER_COMMAND (R152): silently ignored. -/
def execOtherCommand (dst src command : Byte) (payload : Bytes) (s : State) :
    Host.Outcome State Fault Refusal :=
  .next (s.dispatch { toAddr := dst, fromAddr := src, command := command, payload := payload })

end Sys2Proof.Machine
end

