-- ==== Sys2Proof/Machine/Stream.lean ====
section
/-! DEFINITION. The stream decoder (spec/40_stream_decoder.md): PUSH and the three byte classes, FEED,
EXTRACT, CLASSIFY, IDLE_FLUSH, DISCARD_OVERFLOW. -/

namespace Sys2Proof.Machine

/-- What classifying a candidate emits (R102, R189): for a valid frame FRAME and then the router's
events on the decoded message (R110), else one DIAG. R123 says that what stands after the first END inside
an encoded frame is "one or more text candidates"; by R101 and R102 such a rest is classified like any
candidate and can be malformed or a valid frame, and so it is here (DEDUCED, assumption log 23). -/
def candidateEvents (c : Bytes) : List OutEvent :=
  if startsOk c then
    if Config.minFrameLen ≤ c.length then
      .frame c ::
        match decodeFrame c with
        | some m => routeEvents m
        | none => [.diag .discardMalformed c.length]
    else [.diag .discardMalformed c.length]
  else [.diag .discardText c.length]

/-- `CLASSIFY(c)` on the state: the bytes are already out of the buffer (R190). -/
def State.classify (s : State) (c : Bytes) : State := s.emitAll (candidateEvents c)

/-- The overflow discard (R109): DIAG with the bytes held plus 1, the buffer emptied. -/
def State.discardOverflow (s : State) : State :=
  (s.raise .discardOverflow (s.buf.length + 1)).emptied

/-- `PUSH(b)` (R103). -/
def State.pushByte (s : State) (b : Byte) : State :=
  if b = Config.endMark then
    if s.ovf then s.discardOverflow
    else s.emptied.classify (s.buf.append Config.endMark)
  else if s.hasRoom then { s with buf := s.buf.append b, idleCnt := 0 }
  else { s with idleCnt := 0, ovf := true }

/-- EXTRACT then CLASSIFY: one turn of FEED's loop (R100, R101). -/
def State.extractAndClassify (s : State) : State :=
  let cut := s.buf.takeDrop s.buf.firstEnd
  { s with buf := cut.2 }.classify cut.1

/-- FEED's loop `while has_end()`, at most `fuel` turns (R100). -/
def State.drain : Nat → State → State
  | 0, s => s
  | fuel + 1, s => if s.buf.hasEnd then State.drain fuel s.extractAndClassify else s

/-- `FEED(bs)` (R100): the loop runs once per END in the buffer (R113). The pseudocode is for
`BUF_DEPTH = none`; with a finite depth FEED is defined as the PUSH sequence (R104). The empty FEED
changes nothing (R108). -/
def State.feed (s : State) (bs : Bytes) : State :=
  if bs = [] then s
  else
    match s.cfg.bufDepth with
    | none =>
        State.drain ((s.buf ++ bs).count Config.endMark) { s with buf := s.buf ++ bs, idleCnt := 0 }
    | some _ => bs.foldl State.pushByte s

/-- `IDLE_FLUSH()` (R106). On an empty buffer nothing is discarded and there is no record: the spec
excludes an `IDLE_FLUSH(0)` (D5, R107; DEDUCED, assumption log 6). -/
def State.idleFlush (s : State) : State :=
  if s.armed then (s.raise .idleFlush s.buf.length).emptied else s.emptied

/-- PUSH (R103). -/
def execPush (b : Byte) (s : State) : Host.Outcome State Fault Refusal := .next (s.pushByte b)

/-- END, the byte that closes the candidate wherever it occurs (R61, R101); a received byte is a PUSH
(DEDUCED, assumption log 13). -/
def execEndByte (s : State) : Host.Outcome State Fault Refusal := .next (s.pushByte Config.endMark)

/-- START, stored like any data byte (R61, R103). -/
def execStartByte (s : State) : Host.Outcome State Fault Refusal := .next (s.pushByte Config.startMark)

/-- DATA, stored and not interpreted (R61, R103). -/
def execDataByte (b : Byte) (s : State) : Host.Outcome State Fault Refusal := .next (s.pushByte b)

/-- FEED (R100, R104, R108). -/
def execFeed (bs : Bytes) (s : State) : Host.Outcome State Fault Refusal := .next (s.feed bs)

/-- EXTRACT (R101): the candidate goes to the caller; without an END the operation is not defined. -/
def execExtract (s : State) : Host.Outcome State Fault Refusal :=
  if s.buf.hasEnd then
    let cut := s.buf.takeDrop s.buf.firstEnd
    .next ({ s with buf := cut.2 }.answer (.bytes cut.1))
  else .fault .extractWithoutEnd

/-- CLASSIFY (R102). -/
def execClassify (c : Bytes) (s : State) : Host.Outcome State Fault Refusal := .next (s.classify c)

/-- IDLE_FLUSH (R106). -/
def execIdleFlush (s : State) : Host.Outcome State Fault Refusal := .next s.idleFlush

/-- DISCARD_OVERFLOW (R109), also where `ovf = 0` (DESIGN CHOICE, assumption log 7). -/
def execDiscardOverflow (s : State) : Host.Outcome State Fault Refusal := .next s.discardOverflow

end Sys2Proof.Machine
end

