-- ==== Sys2Proof/Machine/System.lean ====
section
/-! DEFINITION. The system operations (R115): NOP (R108), TICK (R105), RESET (R210). -/

namespace Sys2Proof.Machine

/-- NOP (R108): changes nothing and emits nothing. -/
def execNop (s : State) : Host.Outcome State Fault Refusal := .next s

/-- TICK (R105): counts while the buffer is not empty, and flushes at the `IDLE_TICKS`-th. -/
def execTick (s : State) : Host.Outcome State Fault Refusal :=
  if s.armed then
    if s.expires then .next s.idleFlush else .next { s with idleCnt := s.idleCnt + 1 }
  else .next s

/-- RESET (R210): the receive agent's triple to its reset value, nothing emitted; the command agent,
Transport and what was emitted before are not touched. -/
def execReset (s : State) : Host.Outcome State Fault Refusal := .next s.emptied

end Sys2Proof.Machine
end

