-- ==== Sys2Proof/Machine/Dispatch.lean ====
section
/-! DEFINITION. One arm per operation, in the opcode table's order. -/

namespace Sys2Proof.Machine

/-- The effect of one operation. -/
def exec (i : Instr) (s : State) : Host.Outcome State Fault Refusal :=
  match i with
  | .nop => Sys2Proof.Machine.execNop s
  | .push b => Sys2Proof.Machine.execPush b s
  | .tick => Sys2Proof.Machine.execTick s
  | .reset => Sys2Proof.Machine.execReset s
  | .endByte => Sys2Proof.Machine.execEndByte s
  | .startByte => Sys2Proof.Machine.execStartByte s
  | .dataByte b => Sys2Proof.Machine.execDataByte b s
  | .getFrequencyResponse dst src b0 b1 b2 b3 b4 => Sys2Proof.Machine.execGetFrequencyResponse dst src b0 b1 b2 b3 b4 s
  | .getFrequencyBadlen dst src payload => Sys2Proof.Machine.execGetFrequencyBadlen dst src payload s
  | .getSquelchResponse dst src level rest => Sys2Proof.Machine.execGetSquelchResponse dst src level rest s
  | .getSquelchEmpty dst src => Sys2Proof.Machine.execGetSquelchEmpty dst src s
  | .otherCommand dst src command payload => Sys2Proof.Machine.execOtherCommand dst src command payload s
  | .requestFrequency => Sys2Proof.Machine.execRequestFrequency s
  | .requestSquelch => Sys2Proof.Machine.execRequestSquelch s
  | .setFrequency hz => Sys2Proof.Machine.execSetFrequency hz s
  | .setMode m => Sys2Proof.Machine.execSetMode m s
  | .setSquelch v => Sys2Proof.Machine.execSetSquelch v s
  | .setMonitor m0 m1 => Sys2Proof.Machine.execSetMonitor m0 m1 s
  | .feed bs => Sys2Proof.Machine.execFeed bs s
  | .extract => Sys2Proof.Machine.execExtract s
  | .classify c => Sys2Proof.Machine.execClassify c s
  | .idleFlush => Sys2Proof.Machine.execIdleFlush s
  | .discardOverflow => Sys2Proof.Machine.execDiscardOverflow s
  | .decFrame f => Sys2Proof.Machine.execDecFrame f s
  | .encFrame command payload => Sys2Proof.Machine.execEncFrame command payload s
  | .encFreq hz => Sys2Proof.Machine.execEncFreq hz s
  | .decFreq b0 b1 b2 b3 b4 => Sys2Proof.Machine.execDecFreq b0 b1 b2 b3 b4 s
  | .decSql p => Sys2Proof.Machine.execDecSql p s
  | .dispatch m => Sys2Proof.Machine.execDispatch m s
  | .send command payload => Sys2Proof.Machine.execSend command payload s

end Sys2Proof.Machine
end

