-- ==== Sys2Proof/Machine/Reader.lean ====
section
/-! DEFINITION. The read side of Transport (R169, R171): which operations take bytes from the line, what a
poll of the reader loop gives the block, and what the end of the reader loop does. -/

namespace Sys2Proof.Machine

/-- The operations that are the arrival of bytes from the line: PUSH, FEED, the byte classes, and the
received frames. -/
def fromLine : Instr → Bool
  | .nop => false
  | .push _ => true
  | .tick => false
  | .reset => false
  | .endByte => true
  | .startByte => true
  | .dataByte _ => true
  | .getFrequencyResponse _ _ _ _ _ _ _ => true
  | .getFrequencyBadlen _ _ _ => true
  | .getSquelchResponse _ _ _ _ => true
  | .getSquelchEmpty _ _ => true
  | .otherCommand _ _ _ _ => true
  | .requestFrequency => false
  | .requestSquelch => false
  | .setFrequency _ => false
  | .setMode _ => false
  | .setSquelch _ => false
  | .setMonitor _ _ => false
  | .feed _ => true
  | .extract => false
  | .classify _ => false
  | .idleFlush => false
  | .discardOverflow => false
  | .decFrame _ => false
  | .encFrame _ _ => false
  | .encFreq _ => false
  | .decFreq _ _ _ _ _ => false
  | .decSql _ => false
  | .dispatch _ => false
  | .send _ _ => false

/-- Run an operation that the environment offers. Once the reader loop has ended, bytes on the line are
read by nobody: "the block simply receives no more events" (R171, R184), and what stands in the buffer
"stays until a TICK flushes it or a RESET clears it". -/
def offer (i : Instr) (s : State) : Host.Outcome State Fault Refusal :=
  if s.readerEnded && fromLine i then .next s else exec i s

/-- What one `read_available()` gives (R169). -/
inductive ReadResult where
  /-- The bytes already buffered by the driver, none or more. -/
  | bytes (bs : Bytes)
  /-- `TransportError` (R171). -/
  | failure
deriving DecidableEq, Repr

/-- One turn of the reader loop (R169): the bytes found are one FEED, a poll that finds nothing is a NOP, a
failure ends the loop. -/
def readerInput : ReadResult → Input
  | .bytes bs => if bs = [] then .call .nop else .call (.feed bs)
  | .failure => .ioFailure .onRead

end Sys2Proof.Machine
end

