-- ==== Sys2Proof/Machine/Step.lean ====
section
/-! DEFINITION. One step: take the next pending input, decode it, run it (R10, R46). -/

namespace Sys2Proof.Machine

/-- One step. "The block never waits: with no input event it does nothing and keeps its state" (R115). What
is written in a word that stands for no operation is refused (R72, R75; DEDUCED, assumption log 16). -/
def step (s : State) : Host.Outcome State Fault Refusal :=
  match s.pending with
  | [] => .next s
  | .ioFailure side :: rest => .next ({ s with pending := rest }.ioFails side)
  | .call i :: rest => offer i { s with pending := rest }
  | .code c :: rest =>
      match decode s.cfg.txOrder c with
      | .ok i => offer i { s with pending := rest }
      | .error e => .refused (.undecodable e)

/-- The state in which the next step takes the table word `w` of `nbits` bits: its code is offered before
all other inputs, and the reader loop runs (DESIGN CHOICE, assumption log 1). -/
def State.withFetchWord (s : State) (nbits w : Nat) : State :=
  { s with pending := .code (codeOfTableWord nbits w) :: s.pending, readerEnded := false }

end Sys2Proof.Machine
end

