-- ==== Sys2Proof/Machine/Cycle.lean ====
section
/-! DEFINITION. Operations in sequence (R10 "Run", R104), and the events of one clock cycle of a
clocked realisation (R188, D7). -/

namespace Sys2Proof.Machine

/-- The operations one after the other, stopping at the first fault or refusal. -/
def execAll : List Instr → State → Host.Outcome State Fault Refusal
  | [], s => .next s
  | i :: is, s =>
      match exec i s with
      | .next t => execAll is t
      | .fault r => .fault r
      | .refused r => .refused r

/-- The events of one clock cycle in the order they are handled (R188): RESET overrides the others, PUSH
comes before TICK. With `IDLE_TICKS = 1` the TICK flushes the byte just pushed (DEDUCED, assumption log
22). -/
def cycleEvents (rst : Bool) (rx : Option Byte) (tick : Bool) : List Instr :=
  if rst then [.reset]
  else (match rx with
    | some b => [.push b]
    | none => []) ++ (if tick then [.tick] else [])

/-- One clock cycle. -/
def cycle (rst : Bool) (rx : Option Byte) (tick : Bool) (s : State) :
    Host.Outcome State Fault Refusal :=
  execAll (cycleEvents rst rx tick) s

end Sys2Proof.Machine
end

