-- ==== Sys2Proof/Safety.lean ====
section
/-! DEFINITION. What the statements speak in: the state invariants of R33, the cutting of a byte stream
into candidates (R111 P1), and the shape of a frequency payload (R135). -/

namespace Sys2Proof.Machine

/-- The invariants I1 to I5 of R33, and that the parameters are legal ones (R6). I1 and I4 are the form of
the buffer, `Memory.wf`. -/
structure State.Inv (s : State) : Prop where
  /-- The parameters are values R6 admits. -/
  legal : s.cfg.Legal
  /-- I1 and I4. -/
  bufWf : s.buf.wf s.cfg.bufDepth = true
  /-- I2. -/
  emptyIsIdle : s.buf = [] → s.idleCnt = 0 ∧ s.ovf = false
  /-- I3. -/
  idleBound : s.idleCnt < s.cfg.idleTicks
  /-- I5. -/
  unboundedNeverOverflows : s.cfg.bufDepth = none → s.ovf = false

/-- A byte string cut after every END: the END-terminated pieces in order, and the tail after the last
END (R104, R111 P1). -/
def cutStream : Bytes → List Bytes × Bytes
  | [] => ([], [])
  | b :: bs =>
      let rest := cutStream bs
      if b = Config.endMark then ([b] :: rest.1, rest.2)
      else
        match rest.1 with
        | [] => ([], b :: rest.2)
        | c :: cs => ((b :: c) :: cs, rest.2)

/-- `is_bcd` of a whole payload: the premise for claims about a delivered frequency (R135). -/
def bcdPayload (p : Bytes) : Bool := p.all isBcd

/-- The closed form of DEC_FREQ (R131): the sum of `(10*hi(p[i]) + lo(p[i])) * 100^(4-i)`. -/
def wireValue (b0 b1 b2 b3 b4 : Byte) : Nat :=
  (10 * (b0.toNat / 16) + b0.toNat % 16) * 100 ^ 4 + (10 * (b1.toNat / 16) + b1.toNat % 16) * 100 ^ 3 +
    (10 * (b2.toNat / 16) + b2.toNat % 16) * 100 ^ 2 + (10 * (b3.toNat / 16) + b3.toNat % 16) * 100 ^ 1 +
    (10 * (b4.toNat / 16) + b4.toNat % 16) * 100 ^ 0

/-- `rev8(hz)` (R133): the number whose 8-digit decimal string is that of `hz` reversed. -/
def rev8 (hz : Nat) : Nat :=
  digit hz 7 * 10 ^ 7 + digit hz 6 * 10 ^ 6 + digit hz 5 * 10 ^ 5 + digit hz 4 * 10 ^ 4 +
    digit hz 3 * 10 ^ 3 + digit hz 2 * 10 ^ 2 + digit hz 1 * 10 + digit hz 0

/-- The operations of the command agent (R10 (2), R49, R75 TXFRAME): the six composed ones and SEND. -/
def isCommand : Instr → Bool
  | .requestFrequency => true
  | .requestSquelch => true
  | .setFrequency _ => true
  | .setMode _ => true
  | .setSquelch _ => true
  | .setMonitor _ _ => true
  | .send _ _ => true
  | _ => false

/-- The operations of the receive agent: the input events, the byte classes, the router's rows, and the
internal steps that answer no caller. -/
def isReceive : Instr → Bool
  | .nop => true
  | .push _ => true
  | .tick => true
  | .reset => true
  | .endByte => true
  | .startByte => true
  | .dataByte _ => true
  | .getFrequencyResponse _ _ _ _ _ _ _ => true
  | .getFrequencyBadlen _ _ _ => true
  | .getSquelchResponse _ _ _ _ => true
  | .getSquelchEmpty _ _ => true
  | .otherCommand _ _ _ _ => true
  | .feed _ => true
  | .classify _ => true
  | .idleFlush => true
  | .discardOverflow => true
  | .dispatch _ => true
  | _ => false

end Sys2Proof.Machine
end

