-- ==== Sys2Proof/Certificates/Slice0/Obligations.lean ====
section
/-! DEFINITION. The statements for the provers. An equation `exec i s = .next { s with … }` states the
effect, that the operation completes, and its frame: every field it does not name is as it was. -/

open Sys2Proof Sys2Proof.Machine

/-! ### Encodings (spec/30_encoding.md) -/

/-- Words written out from the spec's encodings: event words (R72), stream bytes (R61), received frames
(R60, T6, T7), transmitted frames (R74, T11). -/
def Obligations.WordsOfTheSpecDecode : Prop :=
  decode .formula (.event 0x000) = .ok .nop ∧
  decode .formula (.event 0x17F) = .ok (.push 0x7F) ∧
  decode .formula (.event 0x200) = .ok .tick ∧
  decode .formula (.event 0x300) = .ok .reset ∧
  decode .formula (.byte 0xFD) = .ok .endByte ∧
  decode .formula (.byte 0xFE) = .ok .startByte ∧
  decode .formula (.byte 0x41) = .ok (.dataByte 0x41) ∧
  decode .formula (.rxframe [0xFE, 0xFE, 0x00, 0xE0, 0x03, 0x00, 0x07, 0x41, 0x00, 0x00, 0xFD]) =
    .ok (.getFrequencyResponse 0x00 0xE0 0x00 0x07 0x41 0x00 0x00) ∧
  decode .formula (.rxframe [0xFE, 0xFE, 0xE0, 0x00, 0x15, 0x7F, 0xFD]) =
    .ok (.getSquelchResponse 0xE0 0x00 0x7F []) ∧
  decode .formula (.rxframe [0xFE, 0xFE, 0xE0, 0x00, 0xFD]) = .error .notAValidFrame ∧
  decode .formula (.txframe [0xFE, 0xFE, 0xE0, 0x00, 0x03, 0xFD]) = .ok .requestFrequency ∧
  decode .formula (.txframe [0xFE, 0xFE, 0xE0, 0x00, 0x05, 0x00, 0x00, 0x14, 0x70, 0x00, 0xFD]) =
    .ok (.setFrequency 7410000) ∧
  decode .formula (.txframe [0xFE, 0xFE, 0xE0, 0x00, 0x06, 0x01, 0xFD]) = .ok (.setMode 0x01)

/-- Decoding the code of a well-formed operation gives it back, under either nibble order: no operand
bit is lost, whatever the operands. The operations without a code are the INTERNAL ones and a SET_FREQUENCY
that `ENC_FREQ` rejects. -/
def Obligations.DecodeUndoesEncode : Prop :=
  (∀ (o : NibbleOrder) (i : Instr) (c : Code), i.wf = true → encode o i = some c → decode o c = .ok i) ∧
  (∀ (o : NibbleOrder) (i : Instr), encode o i = none ↔
    i.format = .internal ∨ ∃ hz : Hz, i = .setFrequency hz ∧ 100000000 ≤ hz.toNat)

/-- A code that decodes is the code of what it decodes to, and that operation is well-formed: each code
has one meaning and no operation has two codes. -/
def Obligations.EncodeUndoesDecode : Prop :=
  ∀ (o : NibbleOrder) (c : Code) (i : Instr), decode o c = .ok i → i.wf = true ∧ encode o i = some c

/-- The operation decoded from a word is the first row of the opcode table that the word (and `plen`)
selects by match, mask and condition. The model keeps the table as data beside its decoder. -/
def Obligations.DecoderPicksTheTablesFirstRow : Prop :=
  ∀ (o : NibbleOrder) (c : Code) (i : Instr),
    decode o c = .ok i → c.selectedRow = some i.mnemonic

/-- The 10-bit event words (R72): the four kinds, and the reserved words, which the decoder names and
the step refuses. -/
def Obligations.EventWordsAreTheTenBitTable : Prop :=
  ∀ (o : NibbleOrder),
    decode o (.event 0x000) = .ok .nop ∧
    (∀ b : Byte, decode o (.event (0x100 + b.toNat)) = .ok (.push b)) ∧
    decode o (.event 0x200) = .ok .tick ∧
    decode o (.event 0x300) = .ok .reset ∧
    (∀ w : Nat, w < 1024 → w ≠ 0x000 → w ≠ 0x200 → w ≠ 0x300 → (w < 0x100 ∨ 0x200 ≤ w) →
      decode o (.event w) = .error .reservedEventWord ∧
      ∀ (s : State) (rest : List Input), s.pending = .code (.event w) :: rest →
        step s = .refused (.undecodable .reservedEventWord))

/-! ### The step and the whole machine -/

/-- A step takes the next pending input. A code that decodes to an operation, or a call of one, is that
operation's effect on the state with the input taken off the list (but for bytes offered after the end of
the reader loop, which StepWithoutAnOperation states); a code that decodes to none is refused. That inputs
stand in a list and one is consumed by a step, that operations of every kind can be steps of their own,
and the refusal of what stands for no operation are the model's (log entries 1, 17 and 16). -/
def Obligations.StepRunsTheDecodedOperation : Prop :=
  (∀ (s : State) (c : Code) (rest : List Input) (i : Instr),
    s.pending = .code c :: rest → decode s.cfg.txOrder c = .ok i →
    (s.readerEnded = false ∨ fromLine i = false) →
    step s = exec i { s with pending := rest }) ∧
  (∀ (s : State) (rest : List Input) (i : Instr),
    s.pending = .call i :: rest → (s.readerEnded = false ∨ fromLine i = false) →
    step s = exec i { s with pending := rest }) ∧
  (∀ (s : State) (c : Code) (rest : List Input) (e : DecodeError),
    s.pending = .code c :: rest → decode s.cfg.txOrder c = .error e →
    step s = .refused (.undecodable e))

/-- With no input the step keeps the state (40_stream_decoder.md section 6). A failure of the Transport
leaves buffer, timer and `ovf` as they are: on read `TransportError` is surfaced and the reader loop ends,
on open it is surfaced and neither side works, on write the next write meets it (44_command_ops.md on the
failure of the transport). Once the reader loop has ended, bytes from the line reach the block no more.
How a failure is offered and kept is the model's (log entries 1 and 9). -/
def Obligations.StepWithoutAnOperation : Prop :=
  (∀ s : State, s.pending = [] → step s = .next s) ∧
  (∀ (s : State) (rest : List Input), s.pending = .ioFailure .onRead :: rest →
    step s = .next { s with pending := rest, readerEnded := true,
                            replies := s.replies ++ [.error .transportError] }) ∧
  (∀ (s : State) (rest : List Input), s.pending = .ioFailure .onOpen :: rest →
    step s = .next { s with pending := rest, readerEnded := true, lineFailed := true,
                            replies := s.replies ++ [.error .transportError] }) ∧
  (∀ (s : State) (rest : List Input), s.pending = .ioFailure .onWrite :: rest →
    step s = .next { s with pending := rest, lineFailed := true }) ∧
  (∀ (s : State) (rest : List Input) (i : Instr), s.readerEnded = true → fromLine i = true →
    (s.pending = .call i :: rest ∨
      ∃ c, s.pending = .code c :: rest ∧ decode s.cfg.txOrder c = .ok i) →
    step s = .next { s with pending := rest })

/-- Power-on is the reset state, with every element at its value, and RESET changes nothing there. -/
def Obligations.PowerOnIsTheResetState : Prop :=
  State.reset.buf = [] ∧ State.reset.idleCnt = 0 ∧ State.reset.ovf = false ∧
  State.reset.armed = false ∧ State.reset.out = [] ∧
  exec .reset State.reset = .next State.reset ∧
  core.reset = State.reset

/-- The invariants I1 to I5 hold at reset. -/
def Obligations.InvariantsHoldAtReset : Prop := State.reset.Inv

/-- Every step keeps I1 to I5 (and the legality of the parameters), from every state that has them, with
whatever input is pending. -/
def Obligations.EveryStepKeepsTheInvariants : Prop :=
  ∀ s t : State, s.Inv → step s = .next t → t.Inv

/-- No step takes back what was emitted, written, notified or answered, RESET included; none changes the
parameters; a failed line stays failed and an ended reader loop ended. That the outputs stay on record, the
parameters in the state, and a failure for good is how the model keeps them (log entries 2, 3 and 9). -/
def Obligations.OutputsOnlyGrow : Prop :=
  ∀ s t : State, step s = .next t →
    s.out <+: t.out ∧ s.written <+: t.written ∧ s.cmdUpdates <+: t.cmdUpdates ∧
    s.replies <+: t.replies ∧ t.cfg = s.cfg ∧ (s.lineFailed = true → t.lineFailed = true) ∧
    (s.readerEnded = true → t.readerEnded = true)

/-- Every FRAME event that a well-formed operation emits, in a state with I1 to I5, carries a candidate
that is a valid frame: so no payload that reaches the router holds an END. -/
def Obligations.OnlyValidFramesAreEmitted : Prop :=
  ∀ (i : Instr) (s t : State), i.wf = true → s.Inv → exec i s = .next t →
    ∃ es, t.out = s.out ++ es ∧
      ∀ c, OutEvent.frame c ∈ es → validFrame c = true ∧ isCandidate c = true

/-! ### The stream decoder (spec/40_stream_decoder.md) -/

/-- PUSH, all four branches (R103): a byte stored, a byte dropped, an END after a drop, an END that
closes a candidate, which is then classified. -/
def Obligations.PushStoresDropsOrCloses : Prop :=
  ∀ (b : Byte) (s : State),
    (b ≠ 0xFD → (s.cfg.bufDepth = none ∨ ∃ d, s.cfg.bufDepth = some d ∧ s.buf.length < d) →
      exec (.push b) s = .next { s with buf := s.buf ++ [b], idleCnt := 0 }) ∧
    (b ≠ 0xFD → (∃ d, s.cfg.bufDepth = some d ∧ ¬ s.buf.length < d) →
      exec (.push b) s = .next { s with idleCnt := 0, ovf := true }) ∧
    (s.ovf = true →
      exec (.push 0xFD) s =
        .next { s with buf := [], idleCnt := 0, ovf := false,
                       out := s.out ++ [.diag .discardOverflow (s.buf ++ [(0xFD : Byte)]).length] }) ∧
    (s.ovf = false →
      exec (.push 0xFD) s =
        exec (.classify (s.buf ++ [0xFD])) { s with buf := [], idleCnt := 0, ovf := false })

/-- The byte classes of the opcode table are PUSHes of their byte (log entry 13); START and DATA are
stored where there is room. -/
def Obligations.ByteClassesArePushes : Prop :=
  ∀ s : State,
    exec .endByte s = exec (.push 0xFD) s ∧ exec .startByte s = exec (.push 0xFE) s ∧
    (∀ b : Byte, exec (.dataByte b) s = exec (.push b) s) ∧
    ((s.cfg.bufDepth = none ∨ ∃ d, s.cfg.bufDepth = some d ∧ s.buf.length < d) →
      exec .startByte s = .next { s with buf := s.buf ++ [0xFE], idleCnt := 0 } ∧
      ∀ b : Byte, b ≠ 0xFD → b ≠ 0xFE →
        exec (.dataByte b) s = .next { s with buf := s.buf ++ [b], idleCnt := 0 })

/-- END empties the buffer in every state, and what it emits is exactly one of the four outcomes of
60_exceptions.md section 2 (order of tests on one candidate); nothing else changes. -/
def Obligations.EndByteClosesTheCandidate : Prop :=
  ∀ s : State, ∃ es,
    exec .endByte s =
      .next { s with buf := [], idleCnt := 0, ovf := false, out := s.out ++ es } ∧
    (s.ovf = true → es = [.diag .discardOverflow (s.buf.length + 1)]) ∧
    (s.ovf = false → ¬ (∃ r, s.buf = 0xFE :: 0xFE :: r) → es = [.diag .discardText (s.buf.length + 1)]) ∧
    (s.ovf = false → (∃ r, s.buf = 0xFE :: 0xFE :: r) → s.buf.length < 5 →
      es = [.diag .discardMalformed (s.buf.length + 1)]) ∧
    (s.ovf = false → (∃ r, s.buf = 0xFE :: 0xFE :: r) → 5 ≤ s.buf.length →
      ∃ e, es = .frame (s.buf ++ [0xFD]) :: e ∧ e.length ≤ 1)

/-- CLASSIFY (R102): text, malformed, or valid; a valid frame is emitted and its message dispatched. -/
def Obligations.ClassifySortsCandidates : Prop :=
  ∀ (c : Bytes) (s : State),
    (¬ (∃ r, c = 0xFE :: 0xFE :: r) →
      exec (.classify c) s = .next { s with out := s.out ++ [.diag .discardText c.length] }) ∧
    ((∃ r, c = 0xFE :: 0xFE :: r) → c.length < 6 →
      exec (.classify c) s = .next { s with out := s.out ++ [.diag .discardMalformed c.length] }) ∧
    (∀ (dst src k z : Byte) (p : Bytes), c = [0xFE, 0xFE, dst, src, k] ++ p ++ [z] →
      exec (.classify c) s =
        exec (.dispatch { toAddr := dst, fromAddr := src, command := k, payload := p })
          { s with out := s.out ++ [.frame c] })

/-- FEED (R100). At least one byte and an unbounded buffer: the bytes join the buffer, the timer restarts,
every END-terminated piece is cut off in order and classified, the tail stays. No byte: nothing. A finite
depth: the PUSH sequence. -/
def Obligations.FeedCutsAndClassifiesInOrder : Prop :=
  ∀ (bs : Bytes) (s : State),
    (bs ≠ [] → s.cfg.bufDepth = none →
      exec (.feed bs) s =
        execAll ((cutStream (s.buf ++ bs)).1.map .classify)
          { s with buf := (cutStream (s.buf ++ bs)).2, idleCnt := 0 }) ∧
    exec (.feed []) s = .next s ∧
    (s.cfg.bufDepth ≠ none → exec (.feed bs) s = execAll (bs.map .push) s)

/-- FEED completes in every state. -/
def Obligations.FeedCompletes : Prop :=
  ∀ (bs : Bytes) (s : State), s.Inv → ∃ t, exec (.feed bs) s = .next t ∧ endFree t.buf = true ∧
    (bs ≠ [] → t.idleCnt = 0) ∧ t.written = s.written ∧ t.cmdUpdates = s.cmdUpdates ∧
    t.replies = s.replies ∧ t.pending = s.pending

/-- What `cutStream` is, the function by which FeedCutsAndClassifiesInOrder says what FEED does: the pieces
and the tail are the string, each piece is a candidate (its only END is its last byte), the tail has no END.
With that statement, the spec's inferences P1 to P3 (40_stream_decoder.md section 5). -/
def Obligations.CutPiecesAreTheCandidates : Prop :=
  ∀ bs : Bytes,
    (cutStream bs).1.flatten ++ (cutStream bs).2 = bs ∧
    (∀ c ∈ (cutStream bs).1, isCandidate c = true) ∧
    endFree (cutStream bs).2 = true

/-- FEED equals one PUSH per byte, for an unbounded buffer (the spec's inference, section 2 of
40_stream_decoder.md) and for a finite one (there the definition of FEED). -/
def Obligations.FeedIsOnePushPerByte : Prop :=
  ∀ (bs : Bytes) (s : State), s.Inv → exec (.feed bs) s = execAll (bs.map .push) s

/-- How the stream is split into FEED calls does not matter. -/
def Obligations.ChunkingDoesNotMatter : Prop :=
  ∀ (xs ys : Bytes) (s : State), s.Inv →
    exec (.feed (xs ++ ys)) s = execAll [.feed xs, .feed ys] s

/-- EXTRACT (R101): everything up to and including the first END goes to the caller, the rest stays. -/
def Obligations.ExtractCutsAtTheFirstEnd : Prop :=
  ∀ (pre post : Bytes) (s : State), (0xFD : Byte) ∉ pre → s.buf = pre ++ 0xFD :: post →
    exec .extract s = .next { s with buf := post, replies := s.replies ++ [.bytes (pre ++ [0xFD])] }

/-- EXTRACT without an END in the buffer: its precondition fails and the model stops (log entry 5). -/
def Obligations.ExtractWithoutEndStops : Prop :=
  ∀ s : State, (0xFD : Byte) ∉ s.buf → exec .extract s = .fault .extractWithoutEnd

/-- TICK (R105): no-op on an empty buffer, a count, or the flush. -/
def Obligations.TickCountsOrFlushes : Prop :=
  ∀ s : State,
    (s.buf = [] → exec .tick s = .next s) ∧
    (s.buf ≠ [] → s.idleCnt + 1 ≠ s.cfg.idleTicks →
      exec .tick s = .next { s with idleCnt := s.idleCnt + 1 }) ∧
    (s.buf ≠ [] → s.idleCnt + 1 = s.cfg.idleTicks →
      exec .tick s = .next { s with buf := [], idleCnt := 0, ovf := false,
                                    out := s.out ++ [.diag .idleFlush s.buf.length] })

/-- k TICKs in a row: on an empty buffer nothing (P6); fewer than are left to `IDLE_TICKS` only count; the
last of them flushes. The spec's inference from its TICK rule (70_reset_and_hazards.md section 2). -/
def Obligations.FlushComesAtTheLastTick : Prop :=
  ∀ (s : State) (k : Nat),
    (s.buf = [] → execAll (List.replicate k .tick) s = .next s) ∧
    (s.buf ≠ [] → s.idleCnt + k < s.cfg.idleTicks →
      execAll (List.replicate k .tick) s = .next { s with idleCnt := s.idleCnt + k }) ∧
    (s.buf ≠ [] → 1 ≤ k → s.idleCnt + k = s.cfg.idleTicks →
      execAll (List.replicate k .tick) s =
        .next { s with buf := [], idleCnt := 0, ovf := false,
                       out := s.out ++ [.diag .idleFlush s.buf.length] })

/-- IDLE_FLUSH (R106) of a buffer that is not empty. -/
def Obligations.IdleFlushDiscardsTheBuffer : Prop :=
  ∀ s : State, s.buf ≠ [] →
    exec .idleFlush s = .next { s with buf := [], idleCnt := 0, ovf := false,
                                       out := s.out ++ [.diag .idleFlush s.buf.length] }

/-- IDLE_FLUSH invoked on an empty buffer discards nothing and leaves no record: the model's choice, log
entry 6, after 92_eei_decisions.md D5. -/
def Obligations.IdleFlushOfNothingIsSilent : Prop :=
  ∀ s : State, s.buf = [] → exec .idleFlush s = .next { s with idleCnt := 0, ovf := false }

/-- Overflow (R109): the dropped byte, the bytes that keep being dropped, the discarded candidate, and
the flush that clears `ovf`. -/
def Obligations.OverflowDropsAndDiscards : Prop :=
  ∀ (s : State) (d : Nat), s.cfg.bufDepth = some d → s.buf.length = d → d ≠ 0 →
    (∀ b : Byte, b ≠ 0xFD → exec (.push b) s = .next { s with idleCnt := 0, ovf := true }) ∧
    (∀ bs : Bytes, (0xFD : Byte) ∉ bs → bs ≠ [] →
      execAll (bs.map .push) s = .next { s with idleCnt := 0, ovf := true }) ∧
    (s.ovf = true →
      exec (.push 0xFD) s = .next { s with buf := [], idleCnt := 0, ovf := false,
                                           out := s.out ++ [.diag .discardOverflow (s.buf.length + 1)] }) ∧
    (∀ t, exec .idleFlush s = .next t → t.ovf = false)

/-- DISCARD_OVERFLOW as an operation of its own (log entry 7). -/
def Obligations.DiscardOverflowEmptiesTheBuffer : Prop :=
  ∀ s : State,
    exec .discardOverflow s = .next { s with buf := [], idleCnt := 0, ovf := false,
                                             out := s.out ++ [.diag .discardOverflow (s.buf.length + 1)] }

/-- NOP and the empty FEED change nothing and emit nothing (R108). -/
def Obligations.NopAndEmptyFeedChangeNothing : Prop :=
  ∀ s : State, exec .nop s = .next s ∧ exec (.feed []) s = .next s

/-- RESET (R210): the triple emptied, nothing emitted, nothing else touched. That what was emitted before
stays on record is the model's reading (log entry 2). -/
def Obligations.ResetEmptiesTheTriple : Prop :=
  ∀ s : State, exec .reset s = .next { s with buf := [], idleCnt := 0, ovf := false }

/-- The frame of memory: a byte once in the buffer keeps its place and value while PUSH stores, drops, or
the named operations that store nothing run; the byte stored is the one at the old length. -/
def Obligations.StoredBytesKeepTheirPlace : Prop :=
  (∀ (b : Byte) (s t : State), b ≠ 0xFD → exec (.push b) s = .next t →
    (∀ a, a ≠ s.buf.length → t.buf.read a 1 = s.buf.read a 1) ∧
    (s.hasRoom = true → t.buf.read s.buf.length 1 = some [b]) ∧
    (s.hasRoom = false → t.buf.read s.buf.length 1 = s.buf.read s.buf.length 1)) ∧
  (∀ (i : Instr) (s t : State), isCommand i = true ∨ i.format = .rxframe ∨ i = .nop ∨
      (∃ c, i = .classify c) ∨ (∃ m, i = .dispatch m) →
    exec i s = .next t → ∀ a, t.buf.read a 1 = s.buf.read a 1)

/-- Bytes in front of a frame, not closed by END, destroy it (the spec's inferences on alignment in
20_memory.md section 3 and on noise in 70_reset_and_hazards.md section 2): for noise that begins with
another byte than START, noise and frame are discarded together as text. -/
def Obligations.NoiseInFrontDestroysTheFrame : Prop :=
  ∀ (b : Byte) (n f : Bytes) (s : State), s.cfg.bufDepth = none → s.buf = [] → s.ovf = false →
    (0xFD : Byte) ∉ b :: n → b ≠ 0xFE → isCandidate f = true →
    exec (.feed (b :: n ++ f)) s =
      .next { s with idleCnt := 0, out := s.out ++ [.diag .discardText ((b :: n).length + f.length)] }

/-! ### The message codec (spec/41_message_codec.md) -/

/-- DEC_FRAME (R120): the four fields of a string of at least 6 bytes, whatever its markers are; a
shorter string is `MalformedFrameError`. -/
def Obligations.DecFrameTakesTheFieldsOut : Prop :=
  (∀ (x y dst src k z : Byte) (p : Bytes) (s : State),
    exec (.decFrame ([x, y, dst, src, k] ++ p ++ [z])) s =
      .next { s with replies := s.replies ++
        [.message { toAddr := dst, fromAddr := src, command := k, payload := p }] }) ∧
  (∀ (f : Bytes) (s : State), f.length < 6 →
    exec (.decFrame f) s = .next { s with out := s.out ++ [.diag .discardMalformed f.length] })

/-- ENC_FRAME (R121): header, payload, END; nothing is checked. -/
def Obligations.EncFrameWrapsThePayload : Prop :=
  ∀ (k : Byte) (p : Bytes) (s : State),
    exec (.encFrame k p) s =
      .next { s with replies := s.replies ++ [.bytes ([0xFE, 0xFE, 0xE0, 0x00, k] ++ p ++ [0xFD])] }

/-- DEC_FRAME after ENC_FRAME gives command and payload back with the fixed addresses, and the encoded
frame is valid; the converse holds only for frames with those addresses (the spec's inference,
41_message_codec.md). -/
def Obligations.DecFrameUndoesEncFrame : Prop :=
  (∀ (k : Byte) (p : Bytes),
    decodeFrame (encodeFrame k p) =
      some { toAddr := 0xE0, fromAddr := 0x00, command := k, payload := p } ∧
    validFrame (encodeFrame k p) = true) ∧
  (∀ (f : Bytes) (m : Message), validFrame f = true → isCandidate f = true → decodeFrame f = some m →
    (encodeFrame m.command m.payload = f ↔ m.toAddr = 0xE0 ∧ m.fromAddr = 0x00))

/-- The bytes of an encoded frame, pushed into a block with an empty buffer, give exactly one FRAME event,
equal to the frame, exactly when neither the command nor the payload holds END (the spec's inference,
41_message_codec.md). Of the rest after an END inside, which the spec there calls text, nothing is said
(log entry 23). -/
def Obligations.EncodedFrameSurvivesWithoutEnd : Prop :=
  ∀ (k : Byte) (p : Bytes) (s : State), s.cfg.bufDepth = none → s.buf = [] → s.ovf = false →
    ∃ t es, execAll ((encodeFrame k p).map .push) s = .next t ∧ t.out = s.out ++ es ∧
      (es.filter (fun e => match e with
        | .frame _ => true
        | _ => false) = [.frame (encodeFrame k p)] ↔ k ≠ 0xFD ∧ (0xFD : Byte) ∉ p)

/-! ### The BCD codec (spec/42_bcd_codec.md) -/

/-- ENC_FREQ (R130): least significant pair first, the units digit of each pair in the high nibble, the
fifth byte zero; from 10^8 on `ValueError` to the caller and nothing else. -/
def Obligations.EncFreqPacksLeastSignificantFirst : Prop :=
  ∀ (hz : Hz) (s : State), s.cfg.txOrder = .formula →
    (hz.toNat < 100000000 →
      ∃ b0 b1 b2 b3 : Byte,
        exec (.encFreq hz) s = .next { s with replies := s.replies ++ [.bytes [b0, b1, b2, b3, 0x00]] } ∧
        b0.toNat = 16 * (hz.toNat % 10) + hz.toNat / 10 % 10 ∧
        b1.toNat = 16 * (hz.toNat / 100 % 10) + hz.toNat / 1000 % 10 ∧
        b2.toNat = 16 * (hz.toNat / 10000 % 10) + hz.toNat / 100000 % 10 ∧
        b3.toNat = 16 * (hz.toNat / 1000000 % 10) + hz.toNat / 10000000 % 10) ∧
    (100000000 ≤ hz.toNat →
      exec (.encFreq hz) s = .next { s with replies := s.replies ++ [.error .valueError] })

/-- ENC_FREQ under the other nibble order, which the spec keeps as a value of a parameter
(93_implementation_defined.md U2; log entry 21): each pair's digits exchanged. -/
def Obligations.EncFreqUnderThePrintedOrder : Prop :=
  ∀ (hz : Hz) (s : State), s.cfg.txOrder = .printedExample →
    (hz.toNat < 100000000 →
      ∃ b0 b1 b2 b3 : Byte,
        exec (.encFreq hz) s = .next { s with replies := s.replies ++ [.bytes [b0, b1, b2, b3, 0x00]] } ∧
        b0.toNat = 16 * (hz.toNat / 10 % 10) + hz.toNat % 10 ∧
        b1.toNat = 16 * (hz.toNat / 1000 % 10) + hz.toNat / 100 % 10 ∧
        b2.toNat = 16 * (hz.toNat / 100000 % 10) + hz.toNat / 10000 % 10 ∧
        b3.toNat = 16 * (hz.toNat / 10000000 % 10) + hz.toNat / 1000000 % 10) ∧
    (100000000 ≤ hz.toNat →
      exec (.encFreq hz) s = .next { s with replies := s.replies ++ [.error .valueError] })

/-- Under either order an encoded field is five bytes of decimal digits, none of them END or START, the
last zero: the property of ENC_FREQ that claims should name (93_implementation_defined.md U2). -/
def Obligations.EncFreqYieldsDecimalBytes : Prop :=
  ∀ (o : NibbleOrder) (hz : Hz) (p : Bytes), encodeFreq o hz = some p →
    p.length = 5 ∧ bcdPayload p = true ∧ (0xFD : Byte) ∉ p ∧ (0xFE : Byte) ∉ p ∧ p.getLast? = some 0x00

/-- DEC_FREQ (R131): the exact weighted sum of the ten nibbles, for any five bytes. -/
def Obligations.DecFreqIsTheExactSum : Prop :=
  ∀ (b0 b1 b2 b3 b4 : Byte) (s : State),
    ∃ v : Hz, exec (.decFreq b0 b1 b2 b3 b4) s = .next { s with replies := s.replies ++ [.frequency v] } ∧
      v.toNat = wireValue b0 b1 b2 b3 b4

/-- Bounds of DEC_FREQ (42_bcd_codec.md section 4): for any bytes below 2^34, for decimal digits at most
9 999 999 999. -/
def Obligations.DecFreqStaysBelowItsPort : Prop :=
  ∀ b0 b1 b2 b3 b4 : Byte,
    (decodeFreq [b0, b1, b2, b3, b4]).toNat = freqValue [b0, b1, b2, b3, b4] ∧
    freqValue [b0, b1, b2, b3, b4] ≤ 16666666665 ∧
    (bcdPayload [b0, b1, b2, b3, b4] = true → freqValue [b0, b1, b2, b3, b4] ≤ 9999999999)

/-- DEC_FREQ after ENC_FREQ reads the digits backwards, a hundredfold; it gives `hz` back exactly where the
last two digits are zero and the first six a palindrome (the spec's inference, 42_bcd_codec.md section 3,
and 90_conflicts.md C11). -/
def Obligations.DecFreqOfEncFreqReversesTheDigits : Prop :=
  ∀ (hz : Hz) (p : Bytes), encodeFreq .formula hz = some p →
    (decodeFreq p).toNat = 100 * rev8 hz.toNat ∧
    (decodeFreq p = hz ↔
      digit hz.toNat 6 = 0 ∧ digit hz.toNat 7 = 0 ∧ digit hz.toNat 0 = digit hz.toNat 5 ∧
      digit hz.toNat 1 = digit hz.toNat 4 ∧ digit hz.toNat 2 = digit hz.toNat 3)

/-- The receive layout has one field of decimal digits for each value below 10^10 (the spec's inference,
42_bcd_codec.md section 3). -/
def Obligations.PeerFieldIsUnique : Prop :=
  ∀ (v : Nat) (p : Bytes), v < 10000000000 →
    ((p.length = 5 ∧ bcdPayload p = true ∧ freqValue p = v) ↔ p = peerFreq v)

/-- DEC_SQL (R132): the first byte; an empty payload is `EmptyPayloadError`. -/
def Obligations.DecSqlTakesTheFirstByte : Prop :=
  (∀ (v : Byte) (rest : Bytes) (s : State),
    exec (.decSql (v :: rest)) s = .next { s with replies := s.replies ++ [.level v] }) ∧
  (∀ s : State, exec (.decSql []) s = .next { s with out := s.out ++ [.diag .emptyPayload 0] })

/-! ### The router (spec/43_dispatcher.md) -/

/-- DISPATCH (R150), all rows of the router's table. -/
def Obligations.DispatchRoutesByCommandAndLength : Prop :=
  ∀ (m : Message) (s : State),
    (m.command = 0x03 → ∀ b0 b1 b2 b3 b4, m.payload = [b0, b1, b2, b3, b4] →
      ∃ v : Hz, v.toNat = wireValue b0 b1 b2 b3 b4 ∧
        exec (.dispatch m) s = .next { s with out := s.out ++ [.freqUpdate v] }) ∧
    (m.command = 0x03 → m.payload.length ≠ 5 →
      exec (.dispatch m) s = .next { s with out := s.out ++ [.diag .payloadLength m.payload.length] }) ∧
    (m.command = 0x15 → ∀ v rest, m.payload = v :: rest →
      exec (.dispatch m) s = .next { s with out := s.out ++ [.sqlUpdate v] }) ∧
    (m.command = 0x15 → m.payload = [] →
      exec (.dispatch m) s = .next { s with out := s.out ++ [.diag .emptyPayload 0] }) ∧
    (m.command ≠ 0x03 → m.command ≠ 0x15 → exec (.dispatch m) s = .next s)

/-- The five RXFRAME rows of the opcode table, each with its output (log entry 12). -/
def Obligations.ReceivedRowsGiveTheirOutput : Prop :=
  (∀ (dst src b0 b1 b2 b3 b4 : Byte) (s : State), ∃ v : Hz, v.toNat = wireValue b0 b1 b2 b3 b4 ∧
    exec (.getFrequencyResponse dst src b0 b1 b2 b3 b4) s =
      .next { s with out := s.out ++ [.freqUpdate v] }) ∧
  (∀ (dst src : Byte) (p : Bytes) (s : State), p.length ≠ 5 →
    exec (.getFrequencyBadlen dst src p) s =
      .next { s with out := s.out ++ [.diag .payloadLength p.length] }) ∧
  (∀ (dst src level : Byte) (rest : Bytes) (s : State),
    exec (.getSquelchResponse dst src level rest) s = .next { s with out := s.out ++ [.sqlUpdate level] }) ∧
  (∀ (dst src : Byte) (s : State),
    exec (.getSquelchEmpty dst src) s = .next { s with out := s.out ++ [.diag .emptyPayload 0] }) ∧
  (∀ (dst src k : Byte) (p : Bytes) (s : State), k ≠ 0x03 → k ≠ 0x15 →
    exec (.otherCommand dst src k p) s = .next s)

/-- Hand-off: classifying a received frame is emitting FRAME and then running the RXFRAME row that the
decoder reads from it (40_stream_decoder.md section 5). That the row is the router's part alone, without
FRAME, is the model's reading (log entry 12). -/
def Obligations.ClassifyHandsOffToTheRow : Prop :=
  ∀ (o : NibbleOrder) (f : Bytes) (i : Instr) (s : State), decode o (.rxframe f) = .ok i →
    exec (.classify f) s = exec i { s with out := s.out ++ [.frame f] }

/-- Addresses are not examined: two frames that differ in them only give the consumers the same calls
(the spec's inference, 43_dispatcher.md). -/
def Obligations.RouterIgnoresAddresses : Prop :=
  ∀ (d a d' a' k z : Byte) (p : Bytes) (s t t' : State),
    exec (.classify ([0xFE, 0xFE, d, a, k] ++ p ++ [z])) s = .next t →
    exec (.classify ([0xFE, 0xFE, d', a', k] ++ p ++ [z])) s = .next t' →
    callerView t.out = callerView t'.out ∧ { t with out := [] } = { t' with out := [] }

/-! ### The command agent (spec/44_command_ops.md) -/

/-- SEND (R160, R168): the encoded frame is written whole, exactly once, on an open line. -/
def Obligations.SendWritesTheEncodedFrame : Prop :=
  ∀ (k : Byte) (p : Bytes) (s : State), s.lineFailed = false →
    exec (.send k p) s =
      .next { s with written := s.written ++ [[0xFE, 0xFE, 0xE0, 0x00, k] ++ p ++ [0xFD]],
                     replies := s.replies ++ [.written] }

/-- The two queries and the three one-shot settings, on an open line: the frames of the written syntax.
SET_MONITOR's two bytes are its operands (log entry 8). -/
def Obligations.ComposedOperationsWriteTheirFrames : Prop :=
  ∀ s : State, s.lineFailed = false →
    exec .requestFrequency s =
      .next { s with written := s.written ++ [[0xFE, 0xFE, 0xE0, 0x00, 0x03, 0xFD]],
                     replies := s.replies ++ [.written] } ∧
    exec .requestSquelch s =
      .next { s with written := s.written ++ [[0xFE, 0xFE, 0xE0, 0x00, 0x15, 0xFD]],
                     replies := s.replies ++ [.written] } ∧
    (∀ m0 m1 : Byte, exec (.setMonitor m0 m1) s =
      .next { s with written := s.written ++ [[0xFE, 0xFE, 0xE0, 0x00, 0x1A, m0, m1, 0xFD]],
                     replies := s.replies ++ [.written] })

/-- SET_MODE and SET_SQUELCH (R163, R164): any byte is sent as given, on an open line; no local
notification. -/
def Obligations.SetModeAndSquelchSendTheByte : Prop :=
  ∀ s : State, s.lineFailed = false →
    (∀ m : Byte, exec (.setMode m) s =
      .next { s with written := s.written ++ [[0xFE, 0xFE, 0xE0, 0x00, 0x06, m, 0xFD]],
                     replies := s.replies ++ [.written] }) ∧
    (∀ v : Byte, exec (.setSquelch v) s =
      .next { s with written := s.written ++ [[0xFE, 0xFE, 0xE0, 0x00, 0x14, v, 0xFD]],
                     replies := s.replies ++ [.written] })

/-- SET_FREQUENCY on an open line: the frame around what ENC_FREQ answers, and the update with `hz`
itself; the two stand in different lists, so in no order. -/
def Obligations.SetFrequencyWritesAndNotifies : Prop :=
  ∀ (hz : Hz) (s : State), hz.toNat < 100000000 → s.lineFailed = false →
    ∃ p, exec (.encFreq hz) s = .next { s with replies := s.replies ++ [.bytes p] } ∧
      exec (.setFrequency hz) s =
        .next { s with written := s.written ++ [[0xFE, 0xFE, 0xE0, 0x00, 0x05] ++ p ++ [0xFD]],
                       cmdUpdates := s.cmdUpdates ++ [hz],
                       replies := s.replies ++ [.written] }

/-- SET_FREQUENCY from 10^8 on (R183): `ValueError` to the caller, nothing written, nothing notified, no
DIAG, on any line. -/
def Obligations.SetFrequencyRejectsTooLarge : Prop :=
  ∀ (hz : Hz) (s : State), 100000000 ≤ hz.toNat →
    exec (.setFrequency hz) s = .next { s with replies := s.replies ++ [.error .valueError] }

/-- A failed line: `TransportError` to the caller, nothing written, the block's state unchanged; only
SET_FREQUENCY may still notify, which the spec leaves open (log entries 9 and 10). -/
def Obligations.FailedLineWritesNothing : Prop :=
  ∀ (i : Instr) (s : State), isCommand i = true → s.lineFailed = true →
    (∀ hz, i = .setFrequency hz → hz.toNat < 100000000) →
    ∃ u n, exec i s =
      .next { s with replies := s.replies ++ [.error .transportError], cmdUpdates := u, choice := n } ∧
      ((∀ hz, i ≠ .setFrequency hz) → u = s.cmdUpdates ∧ n = s.choice) ∧
      (∀ hz, i = .setFrequency hz → u = s.cmdUpdates ∨ u = s.cmdUpdates ++ [hz])

/-- Every operation of the command agent completes and leaves the receive agent's state and output, the
parameters, the line and the pending inputs as they are. -/
def Obligations.CommandsLeaveTheReceiveAgentAlone : Prop :=
  ∀ (i : Instr) (s : State), isCommand i = true →
    ∃ t, exec i s = .next t ∧ t.buf = s.buf ∧ t.idleCnt = s.idleCnt ∧ t.ovf = s.ovf ∧ t.out = s.out ∧
      t.cfg = s.cfg ∧ t.lineFailed = s.lineFailed ∧ t.readerEnded = s.readerEnded ∧ t.pending = s.pending

/-- Every operation of the receive agent listed in `isReceive` (all but EXTRACT) completes and leaves the command agent's lists, the line, the
parameters and the pending inputs as they are. -/
def Obligations.ReceiveLeavesTheCommandAgentAlone : Prop :=
  ∀ (i : Instr) (s : State), isReceive i = true →
    ∃ t, exec i s = .next t ∧ t.written = s.written ∧ t.cmdUpdates = s.cmdUpdates ∧
      t.replies = s.replies ∧ t.choice = s.choice ∧ t.lineFailed = s.lineFailed ∧
      t.readerEnded = s.readerEnded ∧ t.cfg = s.cfg ∧ t.pending = s.pending

/-- The two agents share no state: an operation of the command agent and one of the receive agent give the
same state in either order, from every state. Of the receive agent these are the operations listed in
`isReceive`; EXTRACT and the pure functions, which answer a caller when called by themselves, are left out. -/
def Obligations.TheTwoAgentsCommute : Prop :=
  ∀ (i j : Instr) (s : State), isCommand i = true → isReceive j = true →
    execAll [i, j] s = execAll [j, i] s

/-- A composed frame without an END inside, echoed into a block with an empty buffer, is emitted as a
FRAME and reaches no handler (the spec's inference, 44_command_ops.md). -/
def Obligations.EchoedFramesReachNoHandler : Prop :=
  ∀ (o : NibbleOrder) (i : Instr) (f : Bytes) (s : State),
    encode o i = some (.txframe f) → endFree f.dropLast = true → s.Inv → s.buf = [] →
    ∃ t es, execAll (f.map .push) s = .next t ∧ t.out = s.out ++ .frame f :: es ∧ callerView es = [] ∧
      t.buf = []

/-! ### A clocked realisation (60_exceptions.md section 2) -/

/-- Simultaneous events (R188): RESET first and the others dropped; PUSH before TICK; and so a byte that
arrives at the instant of expiry is kept with the bytes before it. With `IDLE_TICKS = 1` the same order
flushes it in the same cycle (log entry 22). -/
def Obligations.SimultaneousEventsAreOrdered : Prop :=
  (∀ (rx : Option Byte) (tk : Bool) (s : State), cycle true rx tk s = exec .reset s) ∧
  (∀ (b : Byte) (s : State), cycle false (some b) true s = execAll [.push b, .tick] s) ∧
  (∀ (b : Byte) (s : State), cycle false (some b) false s = exec (.push b) s) ∧
  (∀ s : State, cycle false none true s = exec .tick s) ∧
  (∀ s : State, cycle false none false s = .next s) ∧
  (∀ (b : Byte) (s : State), b ≠ 0xFD → s.hasRoom = true → s.idleCnt + 1 = s.cfg.idleTicks →
    2 ≤ s.cfg.idleTicks →
    cycle false (some b) true s = .next { s with buf := s.buf ++ [b], idleCnt := 1 }) ∧
  (∀ (b : Byte) (s : State), b ≠ 0xFD → s.hasRoom = true → s.cfg.idleTicks = 1 →
    cycle false (some b) true s =
      .next { s with buf := [], idleCnt := 0, ovf := false,
                     out := s.out ++ [.diag .idleFlush (s.buf.length + 1)] })
end

