-- ==== Sys2Proof/Laws/Config.lean ====
section
/-! SUPPORT. The constants of R5 in use: the lengths as numerals, the marks told apart. -/

namespace Sys2Proof.Config

@[simp] theorem minFrameLen_eq : minFrameLen = 6 := rfl
@[simp] theorem freqPayloadLen_eq : freqPayloadLen = 5 := rfl
@[simp] theorem freqLimit_eq : freqLimit = 100000000 := rfl
@[simp] theorem startMark_ne_endMark : startMark ≠ endMark := by decide
@[simp] theorem endMark_ne_startMark : endMark ≠ startMark := by decide
@[simp] theorem cmdGetFrequency_ne_endMark : cmdGetFrequency ≠ endMark := by decide
@[simp] theorem cmdGetSquelch_ne_endMark : cmdGetSquelch ≠ endMark := by decide
@[simp] theorem cmdGetSquelch_ne_cmdGetFrequency : cmdGetSquelch ≠ cmdGetFrequency := by decide
@[simp] theorem cmdGetFrequency_ne_cmdGetSquelch : cmdGetFrequency ≠ cmdGetSquelch := by decide

end Sys2Proof.Config
end

