-- ==== Sys2Proof/Laws/Codec.lean ====
section
/-! SUPPORT. One lemma per function of the codec and the classifier, in the terms of the spec. -/

namespace Sys2Proof.Machine

theorem hi_eq (b : Byte) : hi b = b.toNat / 16 := by
  simp [hi, Nat.shiftRight_eq_div_pow]

theorem lo_eq (b : Byte) : lo b = b.toNat % 16 := by
  simp only [lo, BitVec.toNat_and]
  exact Nat.and_two_pow_sub_one_eq_mod b.toNat 4

/-- The two digits of a byte weigh at most 165 (R134 (b)). -/
theorem pairValue_le (b : Byte) : 10 * (b.toNat / 16) + b.toNat % 16 ≤ 165 := by
  have := b.isLt
  omega

/-- Two decimal digits weigh at most 99. -/
theorem pairValue_le_of_isBcd (b : Byte) (h : isBcd b = true) :
    10 * (b.toNat / 16) + b.toNat % 16 ≤ 99 := by
  simp only [isBcd, hi_eq, lo_eq, Bool.and_eq_true, decide_eq_true_eq] at h
  omega

/-- Packing two decimal digits loses nothing (R136). -/
theorem pack_toNat (h l : Nat) (hh : h < 10) (hl : l < 10) : (pack h l).toNat = 16 * h + l := by
  have key : ∀ h : Fin 10, ∀ l : Fin 10, (pack h.val l.val).toNat = 16 * h.val + l.val := by decide
  exact key ⟨h, hh⟩ ⟨l, hl⟩

theorem digit_lt (n k : Nat) : digit n k < 10 := Nat.mod_lt _ (by omega)

theorem encodeFrame_length (k : Byte) (p : Bytes) : (encodeFrame k p).length = p.length + 6 := by
  simp [encodeFrame]

/-- The fields of a frame (R63): whatever the first two bytes and the last are. -/
theorem decodeFrame_fields (x y d a k z : Byte) (p : Bytes) :
    decodeFrame ([x, y, d, a, k] ++ p ++ [z]) =
      some { toAddr := d, fromAddr := a, command := k, payload := p } := by
  simp [decodeFrame, toAddress, fromAddress, commandByte, payloadOf, List.length_append]

theorem decodeFrame_short (f : Bytes) (h : f.length < 6) : decodeFrame f = none := by
  simp [decodeFrame, h]

/-- `starts_ok` (R62): the string begins with two START bytes. -/
theorem startsOk_iff (c : Bytes) : startsOk c = true ↔ ∃ t, c = Config.startMark :: Config.startMark :: t := by
  match c with
  | [] => simp [startsOk]
  | [_] => simp [startsOk]
  | a :: b :: t => simp [startsOk]

/-- A text candidate (R102). -/
theorem candidateEvents_text (c : Bytes) (h : startsOk c = false) :
    candidateEvents c = [.diag .discardText c.length] := by
  simp [candidateEvents, h]

/-- A malformed candidate (R102, R181). -/
theorem candidateEvents_malformed (c : Bytes) (h : startsOk c = true) (hl : c.length < 6) :
    candidateEvents c = [.diag .discardMalformed c.length] := by
  simp [candidateEvents, h, Nat.not_le.mpr hl]

/-- A valid frame (R102, R110). -/
theorem candidateEvents_valid (d a k z : Byte) (p : Bytes) :
    candidateEvents ([Config.startMark, Config.startMark, d, a, k] ++ p ++ [z]) =
      .frame ([Config.startMark, Config.startMark, d, a, k] ++ p ++ [z]) ::
        routeEvents { toAddr := d, fromAddr := a, command := k, payload := p } := by
  have hd := decodeFrame_fields Config.startMark Config.startMark d a k z p
  have hs : startsOk ([Config.startMark, Config.startMark, d, a, k] ++ p ++ [z]) = true := by
    simp [startsOk]
  have hl : 6 ≤ ([Config.startMark, Config.startMark, d, a, k] ++ p ++ [z]).length := by
    simp
  simp only [candidateEvents, hs, Config.minFrameLen_eq, hl, hd, if_true]

/-- The eight decimal digits of a number below 10^8, put together again (R136). -/
theorem digit_sum (n : Nat) (h : n < 100000000) :
    digit n 7 + 10 * digit n 6 + 100 * digit n 5 + 1000 * digit n 4 + 10000 * digit n 3 +
      100000 * digit n 2 + 1000000 * digit n 1 + 10000000 * digit n 0 = n := by
  have a1 : n / 10 / 10 = n / 100 := by rw [Nat.div_div_eq_div_mul]
  have a2 : n / 100 / 10 = n / 1000 := by rw [Nat.div_div_eq_div_mul]
  have a3 : n / 1000 / 10 = n / 10000 := by rw [Nat.div_div_eq_div_mul]
  have a4 : n / 10000 / 10 = n / 100000 := by rw [Nat.div_div_eq_div_mul]
  have a5 : n / 100000 / 10 = n / 1000000 := by rw [Nat.div_div_eq_div_mul]
  have a6 : n / 1000000 / 10 = n / 10000000 := by rw [Nat.div_div_eq_div_mul]
  simp only [digit]
  norm_num
  omega

/-- What ENC_FREQ answers, when it answers (R130): below the limit, five bytes of digits. -/
theorem encodeFreq_some (o : NibbleOrder) (hz : Hz) (p : Bytes) :
    encodeFreq o hz = some p ↔ hz.toNat < 100000000 ∧
      p = [packPair o (digit hz.toNat 7) (digit hz.toNat 6), packPair o (digit hz.toNat 5) (digit hz.toNat 4),
           packPair o (digit hz.toNat 3) (digit hz.toNat 2), packPair o (digit hz.toNat 1) (digit hz.toNat 0),
           0x00] := by
  by_cases h : hz.toNat < 100000000
  · simp [encodeFreq, h, Nat.not_le.mpr h, eq_comm]
  · simp [encodeFreq, h, Nat.not_lt.mp h]

theorem encodeFreq_none (o : NibbleOrder) (hz : Hz) :
    encodeFreq o hz = none ↔ 100000000 ≤ hz.toNat := by
  by_cases h : 100000000 ≤ hz.toNat <;> simp [encodeFreq, h]

/-- A packed pair of digits read back. -/
theorem unpackPair_packPair (o : NibbleOrder) (e d : Nat) (he : e < 10) (hd : d < 10) :
    unpackPair o (packPair o e d) = d * 10 + e := by
  cases o <;> simp [unpackPair, packPair, hi_eq, lo_eq, pack_toNat, he, hd] <;> omega

/-- The frequency field that ENC_FREQ makes is read back as its `hz`. -/
theorem freqOfField_encodeFreq (o : NibbleOrder) (hz : Hz) (p : Bytes) (h : encodeFreq o hz = some p) :
    freqOfField o p = some hz := by
  obtain ⟨hlt, hp⟩ := (encodeFreq_some o hz p).1 h
  have hs := digit_sum _ hlt
  have e : BitVec.ofNat 34
      (unpackPair o (packPair o (digit hz.toNat 7) (digit hz.toNat 6)) +
        100 * unpackPair o (packPair o (digit hz.toNat 5) (digit hz.toNat 4)) +
        10000 * unpackPair o (packPair o (digit hz.toNat 3) (digit hz.toNat 2)) +
        1000000 * unpackPair o (packPair o (digit hz.toNat 1) (digit hz.toNat 0))) = hz := by
    simp only [unpackPair_packPair, digit_lt]
    apply BitVec.eq_of_toNat_eq
    simp only [BitVec.toNat_ofNat]
    omega
  rw [hp] at h ⊢
  simp only [freqOfField, e]
  rw [if_pos h]

/-- The router emits at most one event (R150). -/
theorem routeEvents_length (m : Message) : (routeEvents m).length ≤ 1 := by
  unfold routeEvents
  split
  · split <;> simp
  · split
    · split <;> simp
    · simp

end Sys2Proof.Machine
end

