-- ==== Sys2Proof/Laws/Decode.lean ====
section
/-! SUPPORT. What the decoder reads from a frame that the encoder wrote. -/

namespace Sys2Proof

open Machine

/-- The bytes of a received frame with END-free fields are a candidate (R62). -/
theorem isCandidate_rxBytes (dst src k : Byte) (p : Bytes) (h : endFree (dst :: src :: k :: p) = true) :
    isCandidate (rxBytes dst src k p) = true := by
  have e : rxBytes dst src k p = ([Config.startMark, Config.startMark, dst, src, k] ++ p) ++ [Config.endMark] := rfl
  rw [isCandidate, e, List.dropLast_concat, List.getLast?_concat]
  simpa [endFree] using h

/-- A received frame is read as the row of its message (R77, R157). -/
theorem decodeRx_rxBytes (dst src k : Byte) (p : Bytes) (h : endFree (dst :: src :: k :: p) = true) :
    decodeRx (rxBytes dst src k p) =
      .ok (rowOfMessage { toAddr := dst, fromAddr := src, command := k, payload := p }) := by
  have hf := decodeFrame_fields Config.startMark Config.startMark dst src k Config.endMark p
  have hv : validFrame (rxBytes dst src k p) = true := by simp [validFrame, rxBytes, startsOk]
  simp only [decodeRx, isCandidate_rxBytes dst src k p h, hv]
  simp only [rxBytes]
  rw [hf]
  simp

/-- A frame that ENC_FRAME made is read by its command and payload (R121, R74). -/
theorem decodeTx_encodeFrame (o : NibbleOrder) (k : Byte) (p : Bytes) :
    decodeTx o (encodeFrame k p) = decodeTxFields o k p := by
  have h : decodeFrame (encodeFrame k p) =
      some { toAddr := Config.radioAddr, fromAddr := Config.computerAddr, command := k, payload := p } :=
    decodeFrame_fields _ _ _ _ _ _ _
  simp [decodeTx, h]

namespace Machine

/-- Masking a big-endian number goes byte by byte: one byte. -/
theorem land_byte (a c b d : Nat) (hb : b < 256) (hd : d < 256) :
    (a * 256 + b) &&& (c * 256 + d) = (a &&& c) * 256 + (b &&& d) := by
  have hbd : b &&& d < 2 ^ 8 := Nat.and_lt_two_pow b (by simpa using hd)
  apply Nat.eq_of_testBit_eq
  intro j
  have e : ∀ x y, x * 256 + y = 2 ^ 8 * x + y := by intros; omega
  rw [e, e, e, Nat.testBit_and, Nat.testBit_two_pow_mul_add _ (by simpa using hb),
    Nat.testBit_two_pow_mul_add _ (by simpa using hd), Nat.testBit_two_pow_mul_add _ hbd]
  split <;> simp

/-- Masking a big-endian number goes byte by byte (R75 `w & mask`). -/
theorem bigEndian_land (f m : Bytes) (h : f.length = m.length) :
    bigEndian f &&& bigEndian m = bigEndian (List.zipWith (· &&& ·) f m) := by
  have key : ∀ (f m : Bytes) (x y : Nat), f.length = m.length →
      f.foldl (fun v b => v * 256 + b.toNat) x &&& m.foldl (fun v b => v * 256 + b.toNat) y =
        (List.zipWith (· &&& ·) f m).foldl (fun v b => v * 256 + b.toNat) (x &&& y) := by
    intro f
    induction f with
    | nil => intro m x y h; cases m <;> simp at h ⊢
    | cons b f ih =>
      intro m x y h
      cases m with
      | nil => simp at h
      | cons c m =>
        simp only [List.foldl_cons, List.zipWith_cons_cons]
        rw [ih m _ _ (by simpa using h), land_byte _ _ _ _ b.isLt c.isLt, BitVec.toNat_and]
  exact key f m 0 0 h

/-- Byte strings of one length are told apart by their numbers. -/
theorem bigEndian_inj (f g : Bytes) (h : f.length = g.length) : bigEndian f = bigEndian g ↔ f = g := by
  have key : ∀ (f g : Bytes) (x y : Nat), f.length = g.length →
      (f.foldl (fun v b => v * 256 + b.toNat) x = g.foldl (fun v b => v * 256 + b.toNat) y ↔ x = y ∧ f = g) := by
    intro f
    induction f with
    | nil => intro g x y h; cases g <;> simp at h ⊢
    | cons b f ih =>
      intro g x y h
      cases g with
      | nil => simp at h
      | cons c g =>
        simp only [List.foldl_cons]
        rw [ih g _ _ (by simpa using h)]
        have := b.isLt; have := c.isLt
        constructor
        · rintro ⟨h1, rfl⟩
          have h2 : b.toNat = c.toNat := by omega
          exact ⟨by omega, by rw [BitVec.eq_of_toNat_eq h2]⟩
        · rintro ⟨rfl, h2⟩
          simp at h2; simp [h2]
  simpa [bigEndian] using key f g 0 0 h

end Machine

end Sys2Proof
end

