-- ==== Sys2Proof/Laws/Memory.lean ====
section
/-! SUPPORT. The buffer's primitives (R40): they keep the buffer's form (R23, R22), and what a read gives
after an append or a cut. -/

namespace Sys2Proof.Machine

/-- The form of the buffer, as two facts. -/
theorem Memory.wf_iff (depth : Option Nat) (m : Memory) :
    m.wf depth = true ↔ Config.endMark ∉ m ∧ ∀ d, depth = some d → m.length ≤ d := by
  cases depth <;> simp [Memory.wf]

theorem Memory.reset_wf : State.reset.buf.wf State.reset.cfg.bufDepth = true := by decide

theorem Memory.clear_wf (depth : Option Nat) : Memory.clear.wf depth = true := by
  simp [Memory.wf_iff, Memory.clear]

/-- Appending a byte that is not END where there is room (the precondition of `append`, R40). -/
theorem Memory.append_wf (s : State) (b : Byte) (hw : s.buf.wf s.cfg.bufDepth = true)
    (hb : b ≠ Config.endMark) (hr : s.hasRoom = true) :
    (s.buf.append b).wf s.cfg.bufDepth = true := by
  rw [Memory.wf_iff] at hw ⊢
  refine ⟨by simp [Memory.append, hw.1, Ne.symm hb], fun d hd => ?_⟩
  simp only [State.hasRoom, hd, decide_eq_true_eq] at hr
  simpa [Memory.append] using hr

/-- What is left after a cut has the form the buffer had. -/
theorem Memory.takeDrop_wf (depth : Option Nat) (m : Memory) (i : Nat) (hw : m.wf depth = true) :
    (m.takeDrop i).2.wf depth = true := by
  rw [Memory.wf_iff] at hw ⊢
  refine ⟨fun h => hw.1 (List.mem_of_mem_drop h), fun d hd => ?_⟩
  have := hw.2 d hd
  simp only [Memory.takeDrop, List.length_drop]
  omega

/-- `has_end()` says that an END is in the buffer. -/
theorem Memory.hasEnd_iff (m : Memory) : m.hasEnd = true ↔ Config.endMark ∈ m := by
  simp [Memory.hasEnd]

/-- The cut at the first END (R101): everything up to and including it, and the rest. -/
theorem Memory.takeDrop_firstEnd (pre post : Bytes) (h : Config.endMark ∉ pre) :
    Memory.takeDrop (pre ++ Config.endMark :: post) (Memory.firstEnd (pre ++ Config.endMark :: post)) =
      (pre ++ [Config.endMark], post) := by
  have hf : Memory.firstEnd (pre ++ Config.endMark :: post) = pre.length := by
    induction pre with
    | nil => simp [Memory.firstEnd, List.findIdx_cons]
    | cons a t ih =>
      simp only [List.mem_cons, not_or] at h
      have := ih h.2
      simp only [Memory.firstEnd, List.cons_append, List.findIdx_cons] at this ⊢
      simp [this, beq_eq_false_iff_ne.mpr (Ne.symm h.1)]
  simp [hf, Memory.takeDrop, List.take_append, List.drop_append]

/-- An append changes no byte but the one at the old length (R21). -/
theorem Memory.read_append_of_lt (m : Memory) (b : Byte) (a : Nat) (h : a < m.length) :
    (m.append b).read a 1 = m.read a 1 := by
  have h1 : a + 1 ≤ m.length := h
  have h2 : a + 1 ≤ (m ++ [b]).length := by simp; omega
  simp only [Memory.read, Memory.append, h1, h2, if_true, Option.some.injEq]
  rw [List.drop_append_of_le_length (by omega), List.take_append_of_le_length (by simp; omega)]

theorem Memory.read_append_self (m : Memory) (b : Byte) : (m.append b).read m.length 1 = some [b] := by
  simp [Memory.read, Memory.append]

end Sys2Proof.Machine
end

