-- ==== Sys2Proof/Laws/State.lean ====
section
/-! SUPPORT. What each update of the state leaves in each field, and what the composite updates are in
terms of the four plain ones (`emitAll`, `answer`, `emptied`, `notify`). -/

namespace Sys2Proof.Machine

@[simp] theorem State.emitAll_cfg (s : State) (es : List OutEvent) : (s.emitAll es).cfg = s.cfg := rfl
@[simp] theorem State.emitAll_buf (s : State) (es : List OutEvent) : (s.emitAll es).buf = s.buf := rfl
@[simp] theorem State.emitAll_idleCnt (s : State) (es : List OutEvent) : (s.emitAll es).idleCnt = s.idleCnt := rfl
@[simp] theorem State.emitAll_ovf (s : State) (es : List OutEvent) : (s.emitAll es).ovf = s.ovf := rfl
@[simp] theorem State.emitAll_out (s : State) (es : List OutEvent) : (s.emitAll es).out = s.out ++ es := rfl
@[simp] theorem State.emitAll_written (s : State) (es : List OutEvent) : (s.emitAll es).written = s.written := rfl
@[simp] theorem State.emitAll_cmdUpdates (s : State) (es : List OutEvent) : (s.emitAll es).cmdUpdates = s.cmdUpdates := rfl
@[simp] theorem State.emitAll_replies (s : State) (es : List OutEvent) : (s.emitAll es).replies = s.replies := rfl
@[simp] theorem State.emitAll_lineFailed (s : State) (es : List OutEvent) : (s.emitAll es).lineFailed = s.lineFailed := rfl
@[simp] theorem State.emitAll_readerEnded (s : State) (es : List OutEvent) : (s.emitAll es).readerEnded = s.readerEnded := rfl
@[simp] theorem State.emitAll_choice (s : State) (es : List OutEvent) : (s.emitAll es).choice = s.choice := rfl
@[simp] theorem State.emitAll_pending (s : State) (es : List OutEvent) : (s.emitAll es).pending = s.pending := rfl

@[simp] theorem State.answer_cfg (s : State) (r : Reply) : (s.answer r).cfg = s.cfg := rfl
@[simp] theorem State.answer_buf (s : State) (r : Reply) : (s.answer r).buf = s.buf := rfl
@[simp] theorem State.answer_idleCnt (s : State) (r : Reply) : (s.answer r).idleCnt = s.idleCnt := rfl
@[simp] theorem State.answer_ovf (s : State) (r : Reply) : (s.answer r).ovf = s.ovf := rfl
@[simp] theorem State.answer_out (s : State) (r : Reply) : (s.answer r).out = s.out := rfl
@[simp] theorem State.answer_written (s : State) (r : Reply) : (s.answer r).written = s.written := rfl
@[simp] theorem State.answer_cmdUpdates (s : State) (r : Reply) : (s.answer r).cmdUpdates = s.cmdUpdates := rfl
@[simp] theorem State.answer_replies (s : State) (r : Reply) : (s.answer r).replies = s.replies ++ [r] := rfl
@[simp] theorem State.answer_lineFailed (s : State) (r : Reply) : (s.answer r).lineFailed = s.lineFailed := rfl
@[simp] theorem State.answer_readerEnded (s : State) (r : Reply) : (s.answer r).readerEnded = s.readerEnded := rfl
@[simp] theorem State.answer_choice (s : State) (r : Reply) : (s.answer r).choice = s.choice := rfl
@[simp] theorem State.answer_pending (s : State) (r : Reply) : (s.answer r).pending = s.pending := rfl

@[simp] theorem State.emptied_cfg (s : State) : (s.emptied).cfg = s.cfg := rfl
@[simp] theorem State.emptied_buf (s : State) : (s.emptied).buf = [] := rfl
@[simp] theorem State.emptied_idleCnt (s : State) : (s.emptied).idleCnt = 0 := rfl
@[simp] theorem State.emptied_ovf (s : State) : (s.emptied).ovf = false := rfl
@[simp] theorem State.emptied_out (s : State) : (s.emptied).out = s.out := rfl
@[simp] theorem State.emptied_written (s : State) : (s.emptied).written = s.written := rfl
@[simp] theorem State.emptied_cmdUpdates (s : State) : (s.emptied).cmdUpdates = s.cmdUpdates := rfl
@[simp] theorem State.emptied_replies (s : State) : (s.emptied).replies = s.replies := rfl
@[simp] theorem State.emptied_lineFailed (s : State) : (s.emptied).lineFailed = s.lineFailed := rfl
@[simp] theorem State.emptied_readerEnded (s : State) : (s.emptied).readerEnded = s.readerEnded := rfl
@[simp] theorem State.emptied_choice (s : State) : (s.emptied).choice = s.choice := rfl
@[simp] theorem State.emptied_pending (s : State) : (s.emptied).pending = s.pending := rfl

@[simp] theorem State.notify_cfg (s : State) (hz : Hz) : (s.notify hz).cfg = s.cfg := rfl
@[simp] theorem State.notify_buf (s : State) (hz : Hz) : (s.notify hz).buf = s.buf := rfl
@[simp] theorem State.notify_idleCnt (s : State) (hz : Hz) : (s.notify hz).idleCnt = s.idleCnt := rfl
@[simp] theorem State.notify_ovf (s : State) (hz : Hz) : (s.notify hz).ovf = s.ovf := rfl
@[simp] theorem State.notify_out (s : State) (hz : Hz) : (s.notify hz).out = s.out := rfl
@[simp] theorem State.notify_written (s : State) (hz : Hz) : (s.notify hz).written = s.written := rfl
@[simp] theorem State.notify_cmdUpdates (s : State) (hz : Hz) : (s.notify hz).cmdUpdates = s.cmdUpdates ++ [hz] := rfl
@[simp] theorem State.notify_replies (s : State) (hz : Hz) : (s.notify hz).replies = s.replies := rfl
@[simp] theorem State.notify_lineFailed (s : State) (hz : Hz) : (s.notify hz).lineFailed = s.lineFailed := rfl
@[simp] theorem State.notify_readerEnded (s : State) (hz : Hz) : (s.notify hz).readerEnded = s.readerEnded := rfl
@[simp] theorem State.notify_choice (s : State) (hz : Hz) : (s.notify hz).choice = s.choice := rfl
@[simp] theorem State.notify_pending (s : State) (hz : Hz) : (s.notify hz).pending = s.pending := rfl

/-- A failure of the Transport changes nothing but its own marks and the answer to the caller (R171). -/
theorem State.ioFails_frame (s : State) (side : IoSide) :
    (s.ioFails side).cfg = s.cfg ∧ (s.ioFails side).buf = s.buf ∧ (s.ioFails side).idleCnt = s.idleCnt ∧
      (s.ioFails side).ovf = s.ovf ∧ (s.ioFails side).out = s.out ∧ (s.ioFails side).written = s.written ∧
      (s.ioFails side).cmdUpdates = s.cmdUpdates ∧ s.replies <+: (s.ioFails side).replies ∧
      (s.ioFails side).choice = s.choice ∧ (s.ioFails side).pending = s.pending := by
  cases side <;> simp [State.ioFails, State.raiseToCaller]

@[simp] theorem State.emit_eq (s : State) (e : OutEvent) : s.emit e = s.emitAll [e] := rfl
@[simp] theorem State.raise_eq (s : State) (c : DiagCode) (n : Nat) :
    s.raise c n = s.emitAll [.diag c n] := rfl
@[simp] theorem State.raiseToCaller_eq (s : State) (c : DiagCode) :
    s.raiseToCaller c = s.answer (.error c) := rfl
@[simp] theorem State.dispatch_eq (s : State) (m : Message) : s.dispatch m = s.emitAll (routeEvents m) := rfl
@[simp] theorem State.classify_eq (s : State) (c : Bytes) : s.classify c = s.emitAll (candidateEvents c) := rfl

theorem State.emitAll_emitAll (s : State) (es fs : List OutEvent) :
    (s.emitAll es).emitAll fs = s.emitAll (es ++ fs) := by
  simp [State.emitAll]

theorem State.emitAll_nil (s : State) : s.emitAll [] = s := by
  simp [State.emitAll]

/-- On an open line a frame is written whole and the caller gets `Ok` (R168). -/
theorem State.sendFrame_open (s : State) (k : Byte) (p : Bytes) (h : s.lineFailed = false) :
    s.sendFrame k p =
      { s with written := s.written ++ [encodeFrame k p], replies := s.replies ++ [.written] } := by
  simp [State.sendFrame, State.transportWrite, h, State.answer]

/-- On a failed line the caller gets `TransportError` and nothing else changes (R171). -/
theorem State.sendFrame_failed (s : State) (k : Byte) (p : Bytes) (h : s.lineFailed = true) :
    s.sendFrame k p = { s with replies := s.replies ++ [.error .transportError] } := by
  simp [State.sendFrame, State.transportWrite, h, State.answer]

end Sys2Proof.Machine
end

