-- ==== Sys2Proof/Laws/Invariant.lean ====
section
/-! SUPPORT. The named operations keep the invariants of R33. -/

namespace Sys2Proof.Machine

/-- The invariants speak of the triple and the parameters only. -/
theorem State.Inv.of_triple {s t : State} (h : s.Inv) (hc : t.cfg = s.cfg) (hb : t.buf = s.buf)
    (hi : t.idleCnt = s.idleCnt) (ho : t.ovf = s.ovf) : t.Inv :=
  ⟨hc ▸ h.legal, by rw [hb, hc]; exact h.bufWf, by rw [hb, hi, ho]; exact h.emptyIsIdle,
    by rw [hi, hc]; exact h.idleBound, by rw [hc, ho]; exact h.unboundedNeverOverflows⟩

theorem State.Inv.emitAll {s : State} (h : s.Inv) (es : List OutEvent) : (s.emitAll es).Inv :=
  h.of_triple rfl rfl rfl rfl

theorem State.Inv.answer {s : State} (h : s.Inv) (r : Reply) : (s.answer r).Inv :=
  h.of_triple rfl rfl rfl rfl

theorem State.Inv.notify {s : State} (h : s.Inv) (hz : Hz) : (s.notify hz).Inv :=
  h.of_triple rfl rfl rfl rfl

theorem State.Inv.emptied {s : State} (h : s.Inv) : s.emptied.Inv :=
  ⟨h.legal, Memory.clear_wf _, fun _ => ⟨rfl, rfl⟩, h.legal.2, fun _ => rfl⟩

theorem State.Inv.ioFails {s : State} (h : s.Inv) (side : IoSide) : (s.ioFails side).Inv := by
  cases side <;> exact h.of_triple rfl rfl rfl rfl

theorem State.Inv.sendFrame {s : State} (h : s.Inv) (k : Byte) (p : Bytes) : (s.sendFrame k p).Inv := by
  unfold State.sendFrame State.transportWrite
  split <;> exact h.of_triple rfl rfl rfl rfl

end Sys2Proof.Machine
end

