-- ==== Sys2Proof/Laws/PerInstr.lean ====
section
/-! SUPPORT. A statement made for every operation, one lemma per constructor of Instr. -/

namespace Sys2Proof.Laws.EncodingKeepsFormat

/-- An operation that has a code is written in the format of its row of the opcode table (R75). -/
def Statement (i : Instr) : Prop := ∀ o c, encode o i = some c → c.format = i.format

theorem nop : Statement .nop := fun _ _ h => Option.some.inj h ▸ rfl

theorem push (b : Byte) : Statement (.push b) := fun _ _ h => Option.some.inj h ▸ rfl

theorem tick : Statement .tick := fun _ _ h => Option.some.inj h ▸ rfl

theorem reset : Statement .reset := fun _ _ h => Option.some.inj h ▸ rfl

theorem endByte : Statement .endByte := fun _ _ h => Option.some.inj h ▸ rfl

theorem startByte : Statement .startByte := fun _ _ h => Option.some.inj h ▸ rfl

theorem dataByte (b : Byte) : Statement (.dataByte b) := fun _ _ h => Option.some.inj h ▸ rfl

theorem getFrequencyResponse (dst src b0 b1 b2 b3 b4 : Byte) : Statement (.getFrequencyResponse dst src b0 b1 b2 b3 b4) := fun _ _ h => Option.some.inj h ▸ rfl

theorem getFrequencyBadlen (dst src : Byte) (payload : Bytes) : Statement (.getFrequencyBadlen dst src payload) := fun _ _ h => Option.some.inj h ▸ rfl

theorem getSquelchResponse (dst src level : Byte) (rest : Bytes) : Statement (.getSquelchResponse dst src level rest) := fun _ _ h => Option.some.inj h ▸ rfl

theorem getSquelchEmpty (dst src : Byte) : Statement (.getSquelchEmpty dst src) := fun _ _ h => Option.some.inj h ▸ rfl

theorem otherCommand (dst src command : Byte) (payload : Bytes) : Statement (.otherCommand dst src command payload) := fun _ _ h => Option.some.inj h ▸ rfl

theorem requestFrequency : Statement .requestFrequency := fun _ _ h => Option.some.inj h ▸ rfl

theorem requestSquelch : Statement .requestSquelch := fun _ _ h => Option.some.inj h ▸ rfl

theorem setFrequency (hz : Hz) : Statement (.setFrequency hz) := by
  intro o c h
  simp only [encode, Option.map_eq_some_iff] at h
  obtain ⟨p, -, rfl⟩ := h
  rfl

theorem setMode (m : Byte) : Statement (.setMode m) := fun _ _ h => Option.some.inj h ▸ rfl

theorem setSquelch (v : Byte) : Statement (.setSquelch v) := fun _ _ h => Option.some.inj h ▸ rfl

theorem setMonitor (m0 m1 : Byte) : Statement (.setMonitor m0 m1) := fun _ _ h => Option.some.inj h ▸ rfl

theorem feed (bs : Bytes) : Statement (.feed bs) := fun _ _ h => nomatch h

theorem extract : Statement .extract := fun _ _ h => nomatch h

theorem classify (c : Bytes) : Statement (.classify c) := fun _ _ h => nomatch h

theorem idleFlush : Statement .idleFlush := fun _ _ h => nomatch h

theorem discardOverflow : Statement .discardOverflow := fun _ _ h => nomatch h

theorem decFrame (f : Bytes) : Statement (.decFrame f) := fun _ _ h => nomatch h

theorem encFrame (command : Byte) (payload : Bytes) : Statement (.encFrame command payload) := fun _ _ h => nomatch h

theorem encFreq (hz : Hz) : Statement (.encFreq hz) := fun _ _ h => nomatch h

theorem decFreq (b0 b1 b2 b3 b4 : Byte) : Statement (.decFreq b0 b1 b2 b3 b4) := fun _ _ h => nomatch h

theorem decSql (p : Bytes) : Statement (.decSql p) := fun _ _ h => nomatch h

theorem dispatch (m : Message) : Statement (.dispatch m) := fun _ _ h => nomatch h

theorem send (command : Byte) (payload : Bytes) : Statement (.send command payload) := fun _ _ h => nomatch h

end Sys2Proof.Laws.EncodingKeepsFormat
end

