-- ==== Sys2Proof/Laws/Step.lean ====
section
/-! SUPPORT. What offering an operation does, and everything a step that answers a next state can be. -/

namespace Sys2Proof.Machine

/-- While the reader loop runs, or for an operation that takes no bytes from the line, an offered operation
is run. -/
theorem offer_eq_exec (i : Instr) (s : State) (h : s.readerEnded = false ∨ fromLine i = false) :
    offer i s = exec i s := by
  rcases h with h | h <;> simp [offer, h]

/-- Bytes offered after the end of the reader loop change nothing (R171). -/
theorem offer_unread (i : Instr) (s : State) (hr : s.readerEnded = true) (hi : fromLine i = true) :
    offer i s = .next s := by
  simp [offer, hr, hi]

/-- An offered operation that answers a next state kept the state or was run. -/
theorem offer_cases {i : Instr} {s t : State} (h : offer i s = .next t) : t = s ∨ exec i s = .next t := by
  unfold offer at h
  split at h
  · exact .inl (Host.Outcome.next.inj h).symm
  · exact .inr h

/-- A step that answers a next state kept the state, took a failure of the Transport, took an input that
reached nobody, or ran one operation. -/
theorem step_cases {s t : State} (h : step s = .next t) :
    (s.pending = [] ∧ t = s) ∨
    (∃ side rest, s.pending = .ioFailure side :: rest ∧ t = { s with pending := rest }.ioFails side) ∨
    (∃ input rest, s.pending = input :: rest ∧ t = { s with pending := rest }) ∨
    (∃ input rest i, s.pending = input :: rest ∧ exec i { s with pending := rest } = .next t) := by
  unfold step at h
  split at h
  · next hp => exact .inl ⟨hp, (Host.Outcome.next.inj h).symm⟩
  · next side rest hp => exact .inr (.inl ⟨side, rest, hp, (Host.Outcome.next.inj h).symm⟩)
  · next i rest hp =>
    rcases offer_cases h with ht | he
    · exact .inr (.inr (.inl ⟨_, rest, hp, ht⟩))
    · exact .inr (.inr (.inr ⟨_, rest, i, hp, he⟩))
  · next c rest hp =>
    split at h
    · next i _ =>
      rcases offer_cases h with ht | he
      · exact .inr (.inr (.inl ⟨_, rest, hp, ht⟩))
      · exact .inr (.inr (.inr ⟨_, rest, i, hp, he⟩))
    · cases h

end Sys2Proof.Machine
end

