-- ==== Sys2Proof/Laws/Stream.lean ====
section
/-! SUPPORT. The cutting of a byte stream, FEED's loop, and what PUSH leaves alone. -/

namespace Sys2Proof.Machine

theorem cutStream_endFree (l : Bytes) (h : Config.endMark ∉ l) : cutStream l = ([], l) := by
  induction l with
  | nil => rfl
  | cons a t ih =>
    simp only [List.mem_cons, not_or] at h
    simp [cutStream, ih h.2, Ne.symm h.1]

theorem cutStream_firstEnd (pre post : Bytes) (h : Config.endMark ∉ pre) :
    cutStream (pre ++ Config.endMark :: post) =
      ((pre ++ [Config.endMark]) :: (cutStream post).1, (cutStream post).2) := by
  induction pre with
  | nil => simp [cutStream]
  | cons a t ih =>
    simp only [List.mem_cons, not_or] at h
    simp [cutStream, ih h.2, Ne.symm h.1]

/-- A byte string that holds END, cut at the first one. -/
theorem exists_firstEnd (l : Bytes) (h : Config.endMark ∈ l) :
    ∃ pre post, Config.endMark ∉ pre ∧ l = pre ++ Config.endMark :: post := by
  induction l with
  | nil => simp at h
  | cons a t ih =>
    by_cases ha : a = Config.endMark
    · exact ⟨[], t, by simp, by simp [ha]⟩
    · obtain ⟨p, q, h1, h2⟩ := ih (by simpa [Ne.symm ha] using h)
      exact ⟨a :: p, q, by simp [h1, Ne.symm ha], by simp [h2]⟩

/-- Induction along the candidates of a byte string. -/
theorem stream_induction {P : Bytes → Prop} (tail : ∀ l, Config.endMark ∉ l → P l)
    (piece : ∀ pre post, Config.endMark ∉ pre → P post → P (pre ++ Config.endMark :: post)) :
    ∀ l, P l := by
  intro l
  induction hn : l.length using Nat.strong_induction_on generalizing l with
  | _ n ih =>
    by_cases h : Config.endMark ∈ l
    · obtain ⟨p, q, hp, rfl⟩ := exists_firstEnd l h
      exact piece p q hp (ih q.length (by subst hn; simp; omega) q rfl)
    · exact tail l h

/-- One turn of FEED's loop on a buffer with a first END (R100, R101). -/
theorem extractAndClassify_firstEnd (s : State) (pre post : Bytes) (h : Config.endMark ∉ pre)
    (hs : s.buf = pre ++ Config.endMark :: post) :
    s.extractAndClassify =
      { s with buf := post, out := s.out ++ candidateEvents (pre ++ [Config.endMark]) } := by
  simp [State.extractAndClassify, hs, Memory.takeDrop_firstEnd pre post h, State.emitAll]

/-- FEED's loop, run as often as the buffer holds an END (R100, R113). -/
theorem drain_eq (l : Bytes) : ∀ s : State, s.buf = l →
    State.drain (l.count Config.endMark) s =
      { s with buf := (cutStream l).2, out := s.out ++ (cutStream l).1.flatMap candidateEvents } := by
  induction l using stream_induction with
  | tail l h =>
    intro s hs
    subst hs
    simp [cutStream_endFree _ h, List.count_eq_zero_of_not_mem h, State.drain]
  | piece pre post h ih =>
    intro s hs
    have hc : (pre ++ Config.endMark :: post).count Config.endMark = post.count Config.endMark + 1 := by
      simp [List.count_append, List.count_eq_zero_of_not_mem h]
    have he : s.buf.hasEnd = true := by rw [Memory.hasEnd_iff, hs]; simp
    have ht := extractAndClassify_firstEnd s pre post h hs
    rw [hc, State.drain, if_pos he, cutStream_firstEnd pre post h,
      ih s.extractAndClassify (by rw [ht]), ht]
    simp

/-- What PUSH leaves alone, and that it restarts the timer (R103, R107). -/
theorem pushByte_frame (b : Byte) (s : State) :
    (s.pushByte b).idleCnt = 0 ∧ (s.pushByte b).cfg = s.cfg ∧ s.out <+: (s.pushByte b).out ∧
      (s.pushByte b).written = s.written ∧ (s.pushByte b).cmdUpdates = s.cmdUpdates ∧
      (s.pushByte b).replies = s.replies ∧ (s.pushByte b).lineFailed = s.lineFailed ∧
      (s.pushByte b).readerEnded = s.readerEnded ∧
      (s.pushByte b).choice = s.choice ∧ (s.pushByte b).pending = s.pending := by
  unfold State.pushByte State.discardOverflow
  split <;> split <;> simp

/-- What writing a frame leaves alone (R160, R168). -/
theorem sendFrame_frame (s : State) (k : Byte) (p : Bytes) :
    (s.sendFrame k p).cfg = s.cfg ∧ (s.sendFrame k p).buf = s.buf ∧ (s.sendFrame k p).idleCnt = s.idleCnt ∧
      (s.sendFrame k p).ovf = s.ovf ∧ (s.sendFrame k p).out = s.out ∧
      s.written <+: (s.sendFrame k p).written ∧ (s.sendFrame k p).cmdUpdates = s.cmdUpdates ∧
      s.replies <+: (s.sendFrame k p).replies ∧ (s.sendFrame k p).lineFailed = s.lineFailed ∧
      (s.sendFrame k p).readerEnded = s.readerEnded ∧
      (s.sendFrame k p).choice = s.choice ∧ (s.sendFrame k p).pending = s.pending := by
  unfold State.sendFrame State.transportWrite
  split <;> simp

end Sys2Proof.Machine
end

