-- ==== Sys2Proof/Tests/Slice0.lean ====
section
/-! SUPPORT. Tests of single operations, with expected results from spec/95_test_vectors.md and the rules
cited; a smoke test of every check of WellFormed.lean; and, for each statement with hypotheses, a witness
that meets them. -/

namespace Sys2Proof.Tests

open Sys2Proof Sys2Proof.Machine

/-! ### Helpers -/

/-- The state an operation answers; the reset state where it answers none. -/
def after (i : Instr) (s : State) : State :=
  match exec i s with
  | .next t => t
  | .fault _ => State.reset
  | .refused _ => State.reset

/-- Whether an operation answers a next state. -/
def runs (i : Instr) (s : State) : Bool :=
  match exec i s with
  | .next _ => true
  | .fault _ => false
  | .refused _ => false

/-- The operation a code stands for. -/
def read (c : Code) : Option Instr :=
  match decode .formula c with
  | .ok i => some i
  | .error _ => none

/-- Why a code stands for none. -/
def readError (c : Code) : Option DecodeError :=
  match decode .formula c with
  | .ok _ => none
  | .error e => some e

/-- The reset state with these bytes in the buffer and this count. -/
def holding (bs : Bytes) (n : Nat) : State := { State.reset with buf := bs, idleCnt := n }

/-- A machine with a buffer of ten bytes, full (T10). -/
def fullTen (o : Bool) : State :=
  { State.reset with cfg := { Config.standard with bufDepth := some 10 },
                     buf := [0xFE, 0xFE, 0x00, 0xE0, 0x03, 0x00, 0x07, 0x41, 0x00, 0x00], ovf := o }

/-- The reset state with a failed line. -/
def broken : State := { State.reset with lineFailed := true }

/-! ### Decoding: words written out from the spec's encodings -/

/-- R72: `01` and the data byte 0x7F. -/
theorem test_decode_push : read (.event 0x17F) = some (.push 0x7F) := by decide
/-- R72. -/
theorem test_decode_events : read (.event 0x000) = some .nop ∧ read (.event 0x200) = some .tick ∧
    read (.event 0x300) = some .reset := by decide
/-- R72: reserved words and too wide ones. -/
theorem test_decode_reserved : readError (.event 0x001) = some .reservedEventWord ∧
    readError (.event 0x2FF) = some .reservedEventWord ∧ readError (.event 0x301) = some .reservedEventWord ∧
    readError (.event 0x400) = some .eventWordTooWide := by decide
/-- R61. -/
theorem test_decode_bytes : read (.byte 0xFD) = some .endByte ∧ read (.byte 0xFE) = some .startByte ∧
    read (.byte 0x41) = some (.dataByte 0x41) := by decide
/-- T7, first and seventh rows. -/
theorem test_decode_frequency_frames :
    read (.rxframe [0xFE, 0xFE, 0x00, 0xE0, 0x03, 0x00, 0x07, 0x41, 0x00, 0x00, 0xFD]) =
      some (.getFrequencyResponse 0x00 0xE0 0x00 0x07 0x41 0x00 0x00) ∧
    read (.rxframe [0xFE, 0xFE, 0x00, 0xE0, 0x03, 0x00, 0x07, 0x41, 0x00, 0xFD]) =
      some (.getFrequencyBadlen 0x00 0xE0 [0x00, 0x07, 0x41, 0x00]) := by decide
/-- E1; T6, sixth row; E7. -/
theorem test_decode_other_frames :
    read (.rxframe [0xFE, 0xFE, 0xE0, 0x00, 0x15, 0x7F, 0xFD]) =
      some (.getSquelchResponse 0xE0 0x00 0x7F []) ∧
    read (.rxframe [0xFE, 0xFE, 0x00, 0xE0, 0x15, 0xFD]) = some (.getSquelchEmpty 0x00 0xE0) ∧
    read (.rxframe [0xFE, 0xFE, 0x00, 0xE0, 0x06, 0x01, 0xFD]) =
      some (.otherCommand 0x00 0xE0 0x06 [0x01]) := by decide
/-- R62, R70: no candidate, and candidates that are no frames. -/
theorem test_decode_no_frames :
    readError (.rxframe [0xFE, 0xFE, 0xE0, 0x00, 0x15, 0x7F]) = some .notACandidate ∧
    readError (.rxframe [0xFE, 0xFE, 0xE0, 0x00, 0x15, 0xFD, 0xFD]) = some .notACandidate ∧
    readError (.rxframe [0xFE, 0xE0, 0x00, 0x15, 0x7F, 0x00, 0xFD]) = some .notAValidFrame ∧
    readError (.rxframe [0xFE, 0xFE, 0xE0, 0x00, 0xFD]) = some .notAValidFrame := by decide
/-- T11: the frames of the composed operations. -/
theorem test_decode_transmit_frames :
    read (.txframe [0xFE, 0xFE, 0xE0, 0x00, 0x03, 0xFD]) = some .requestFrequency ∧
    read (.txframe [0xFE, 0xFE, 0xE0, 0x00, 0x15, 0xFD]) = some .requestSquelch ∧
    read (.txframe [0xFE, 0xFE, 0xE0, 0x00, 0x06, 0x01, 0xFD]) = some (.setMode 0x01) ∧
    read (.txframe [0xFE, 0xFE, 0xE0, 0x00, 0x14, 0xFD, 0xFD]) = some (.setSquelch 0xFD) ∧
    read (.txframe [0xFE, 0xFE, 0xE0, 0x00, 0x1A, 0x01, 0x02, 0xFD]) = some (.setMonitor 0x01 0x02) := by
  decide
/-- T11: `set_frequency 7410000`, and a field that is no ENC_FREQ image (R130: byte 4 is 0x00). -/
theorem test_decode_set_frequency :
    read (.txframe [0xFE, 0xFE, 0xE0, 0x00, 0x05, 0x00, 0x00, 0x14, 0x70, 0x00, 0xFD]) =
      some (.setFrequency 7410000) ∧
    readError (.txframe [0xFE, 0xFE, 0xE0, 0x00, 0x05, 0x00, 0x00, 0x14, 0x70, 0x01, 0xFD]) =
      some .notAFrequencyField ∧
    readError (.txframe [0xFE, 0xFE, 0xE0, 0x00, 0x07, 0x00, 0xFD]) = some .noSuchTransmitFrame := by
  decide
/-- The table's own match words. -/
theorem test_decode_table_words :
    decodeTableWord 16 0x100 = some (.push 0) ∧ decodeTableWord 8 0xFD = some .endByte ∧
    decodeTableWord 40 0xFEFE000003 = some (.getFrequencyResponse 0 0 0 0 0 0 0) ∧
    decodeTableWord 40 0xFEFE000015 = some (.getSquelchResponse 0 0 0 [0, 0, 0, 0]) ∧
    decodeTableWord 88 0xFEFEE000050000000000FD = some (.setFrequency 0) ∧
    decodeTableWord 64 0xFEFEE0001A0000FD = some (.setMonitor 0 0) := by decide
/-- R75: the first row listed wins. -/
theorem test_table_rows :
    Code.selectedRow (.event 0x1FE) = some "PUSH" ∧ Code.selectedRow (.byte 0xFE) = some "START" ∧
    Code.selectedRow (.rxframe [0xFE, 0xFE, 0x00, 0xE0, 0x15, 0xFD]) = some "GET_SQUELCH.empty" ∧
    Code.selectedRow (.txframe [0xFE, 0xFE, 0xE0, 0x00, 0x05, 0x10, 0x32, 0x54, 0x76, 0x00, 0xFD]) =
      some "SET_FREQUENCY" := by decide

/-! ### Well-formedness: one ill-formed term for each check -/

/-- DATA is neither END nor START (R61). -/
theorem test_wf_data : (Instr.dataByte 0xFD).wf = false ∧ (Instr.dataByte 0xFE).wf = false ∧
    (Instr.dataByte 0x00).wf = true := by decide
/-- No END inside a frame (R70 (a)); the payload conditions of the table. -/
theorem test_wf_frames :
    (Instr.getFrequencyResponse 0 0 0 0 0xFD 0 0).wf = false ∧
    (Instr.getFrequencyBadlen 0 0xFD []).wf = false ∧ (Instr.getFrequencyBadlen 0 0 [0, 0, 0, 0, 0]).wf = false ∧
    (Instr.getSquelchResponse 0 0 0xFD []).wf = false ∧ (Instr.getSquelchEmpty 0xFD 0).wf = false ∧
    (Instr.otherCommand 0 0 0xFD []).wf = false ∧ (Instr.otherCommand 0 0 0x03 []).wf = false ∧
    (Instr.otherCommand 0 0 0x15 []).wf = false ∧ (Instr.otherCommand 0 0 0x06 [1]).wf = true := by decide
/-- CLASSIFY takes a candidate (R102). -/
theorem test_wf_classify : (Instr.classify [0x41]).wf = false ∧ (Instr.classify [0xFD, 0xFD]).wf = false ∧
    (Instr.classify [0xFD]).wf = true := by decide

/-! ### Operations -/

/-- T6, last row. -/
theorem test_push_stores : after (.push 0xE0) (holding [0xFE, 0xFE, 0x00] 7) =
    holding [0xFE, 0xFE, 0x00, 0xE0] 0 := by decide
/-- P1, last event. -/
theorem test_push_closes :
    after (.push 0xFD) (holding [0xFE, 0xFE, 0xE0, 0x00, 0x15, 0x7F] 3) =
      { State.reset with out := [.frame [0xFE, 0xFE, 0xE0, 0x00, 0x15, 0x7F, 0xFD], .sqlUpdate 127] } := by decide
/-- T6, first row. -/
theorem test_end_alone : (after .endByte State.reset).out = [.diag .discardText 1] := by decide
/-- T10, second row: the eleventh byte is dropped. -/
theorem test_data_dropped : (after (.dataByte 0x00) (fullTen false)).ovf = true ∧
    (after (.dataByte 0x00) (fullTen false)).buf.length = 10 := by decide
/-- R103: START is stored. -/
theorem test_start_stored : (after .startByte State.reset).buf = [0xFE] := by decide
/-- T10, third row. -/
theorem test_end_after_overflow : (after .endByte (fullTen true)).out = [.diag .discardOverflow 11] := by decide
/-- E3. -/
theorem test_feed_two_frames :
    (after (.feed [0xFE, 0xFE, 0xE0, 0x00, 0x15, 0x7F, 0xFD, 0xFE, 0xFE, 0x00, 0xE0, 0x03, 0x00, 0x07, 0x41,
      0x00, 0x00, 0xFD]) State.reset).out =
      [.frame [0xFE, 0xFE, 0xE0, 0x00, 0x15, 0x7F, 0xFD], .sqlUpdate 127,
       .frame [0xFE, 0xFE, 0x00, 0xE0, 0x03, 0x00, 0x07, 0x41, 0x00, 0x00, 0xFD], .freqUpdate 7410000] := by
  decide
/-- E4, and a tail that stays. -/
theorem test_feed_text :
    after (.feed [0x48, 0x45, 0xFD, 0xFE, 0xFE, 0xE0, 0x00, 0x15, 0x20, 0xFD, 0x41]) (holding [0x00] 9) =
      { State.reset with buf := [0x41], out := [.diag .discardText 4,
          .frame [0xFE, 0xFE, 0xE0, 0x00, 0x15, 0x20, 0xFD], .sqlUpdate 32] } := by decide
/-- R101, example. -/
theorem test_extract :
    after .extract (holding [0xFE, 0xFE, 0xE0, 0x00, 0x15, 0x7F, 0xFD, 0xFE, 0xFE] 0) =
      { holding [0xFE, 0xFE] 0 with replies := [.bytes [0xFE, 0xFE, 0xE0, 0x00, 0x15, 0x7F, 0xFD]] } := by decide
/-- R102, example; E9. -/
theorem test_classify :
    (after (.classify [0x48, 0x45, 0x4C, 0x4C, 0x4F, 0xFD]) State.reset).out = [.diag .discardText 6] ∧
    (after (.classify [0xFE, 0xFE, 0xE0, 0x00, 0xFD]) State.reset).out = [.diag .discardMalformed 5] := by decide
/-- T6: a third FE is ADDRESS_TO, the command is 00. -/
theorem test_classify_three_starts :
    (after (.classify [0xFE, 0xFE, 0xFE, 0xE0, 0x00, 0x15, 0x7F, 0xFD]) State.reset).out =
      [.frame [0xFE, 0xFE, 0xFE, 0xE0, 0x00, 0x15, 0x7F, 0xFD]] := by decide
/-- T8: the 499th and the 500th tick. -/
theorem test_tick :
    after .tick (holding [0x48, 0x49] 498) = holding [0x48, 0x49] 499 ∧
    after .tick (holding [0x48, 0x49] 499) = { State.reset with out := [.diag .idleFlush 2] } := by decide
/-- T8, first row. -/
theorem test_tick_empty : after .tick State.reset = State.reset := by decide
/-- R106, example. -/
theorem test_idle_flush : after .idleFlush (holding [0x41, 0x42] 3) =
    { State.reset with out := [.diag .idleFlush 2] } := by decide
/-- R109. -/
theorem test_discard_overflow : (after .discardOverflow (fullTen true)).out = [.diag .discardOverflow 11] ∧
    (after .discardOverflow (fullTen true)).ovf = false := by decide
/-- T9, second row: RESET is silent. -/
theorem test_reset : after .reset (holding [0xFE, 0xFE, 0x00, 0xE0] 100) = State.reset := by decide
/-- R108. -/
theorem test_nop : after .nop (holding [0x41] 5) = holding [0x41] 5 ∧
    after (.feed []) (holding [0x41] 5) = holding [0x41] 5 := by decide
/-- T5. -/
theorem test_dec_frame :
    (after (.decFrame [0xFE, 0xFE, 0x00, 0xE0, 0x03, 0x00, 0x07, 0x41, 0x00, 0x00, 0xFD]) State.reset).replies =
      [.message { toAddr := 0x00, fromAddr := 0xE0, command := 0x03,
                  payload := [0x00, 0x07, 0x41, 0x00, 0x00] }] ∧
    (after (.decFrame [0xFE, 0xFE, 0xE0, 0x00, 0xFD]) State.reset).out = [.diag .discardMalformed 5] := by decide
/-- T5. -/
theorem test_enc_frame : (after (.encFrame 0x06 [0x01]) State.reset).replies =
    [.bytes [0xFE, 0xFE, 0xE0, 0x00, 0x06, 0x01, 0xFD]] := by decide
/-- T1: 7 410 000, 12 345 678. -/
theorem test_enc_freq :
    (after (.encFreq 7410000) State.reset).replies = [.bytes [0x00, 0x00, 0x14, 0x70, 0x00]] ∧
    (after (.encFreq 12345678) State.reset).replies = [.bytes [0x87, 0x65, 0x43, 0x21, 0x00]] := by decide
/-- T1: the last accepted, the first rejected, the greatest of the port; R137's other order. -/
theorem test_enc_freq_limits :
    encodeFreq .formula 99999999 = some [0x99, 0x99, 0x99, 0x99, 0x00] ∧
    (after (.encFreq 100000000) State.reset).replies = [.error .valueError] ∧
    encodeFreq .formula 17179869183 = none ∧
    encodeFreq .printedExample 7410000 = some [0x00, 0x00, 0x41, 0x07, 0x00] := by decide
/-- T3. -/
theorem test_dec_freq :
    (after (.decFreq 0x12 0x34 0x56 0x78 0x90) State.reset).replies = [.frequency 1234567890] ∧
    (after (.decFreq 0xFF 0xFF 0xFF 0xFF 0xFF) State.reset).replies = [.frequency 16666666665] := by decide
/-- T3: 2^32, and a non-decimal nibble; R138's example. -/
theorem test_dec_freq_corners : decodeFreq [0x42, 0x94, 0x96, 0x72, 0x96] = 4294967296 ∧
    decodeFreq [0x0A, 0x00, 0x00, 0x00, 0x00] = 1000000000 ∧
    peerFreq 7410000 = [0x00, 0x07, 0x41, 0x00, 0x00] := by decide
/-- T4. -/
theorem test_dec_sql : (after (.decSql [0x01, 0x27]) State.reset).replies = [.level 1] ∧
    (after (.decSql []) State.reset).out = [.diag .emptyPayload 0] := by decide
/-- R150, examples. -/
theorem test_dispatch :
    (after (.dispatch { toAddr := 0, fromAddr := 0, command := 0x15, payload := [0x7F] }) State.reset).out =
      [.sqlUpdate 127] ∧
    (after (.dispatch { toAddr := 0, fromAddr := 0, command := 0x05, payload := [0, 0, 0x14, 0x70, 0] })
      State.reset).out = [] := by decide
/-- T7: 99 99 99 99 99, and six payload bytes. -/
theorem test_frequency_rows :
    (after (.getFrequencyResponse 0x00 0xE0 0x99 0x99 0x99 0x99 0x99) State.reset).out =
      [.freqUpdate 9999999999] ∧
    (after (.getFrequencyBadlen 0x00 0xE0 [0x00, 0x07, 0x41, 0x00, 0x00, 0x00]) State.reset).out =
      [.diag .payloadLength 6] := by decide
/-- T7: two payload bytes, none; another command. -/
theorem test_squelch_rows :
    (after (.getSquelchResponse 0x00 0xE0 0x01 [0x27]) State.reset).out = [.sqlUpdate 1] ∧
    (after (.getSquelchEmpty 0x00 0xE0) State.reset).out = [.diag .emptyPayload 0] ∧
    (after (.otherCommand 0x00 0xE0 0x1A [0, 0]) State.reset).out = [] := by decide
/-- T11. -/
theorem test_requests : (after .requestFrequency State.reset).written = [[0xFE, 0xFE, 0xE0, 0x00, 0x03, 0xFD]] ∧
    (after .requestSquelch State.reset).written = [[0xFE, 0xFE, 0xE0, 0x00, 0x15, 0xFD]] := by decide
/-- T11. -/
theorem test_set_frequency :
    (after (.setFrequency 14250000) State.reset).written =
      [[0xFE, 0xFE, 0xE0, 0x00, 0x05, 0x00, 0x00, 0x52, 0x41, 0x00, 0xFD]] ∧
    (after (.setFrequency 14250000) State.reset).cmdUpdates = [14250000] := by decide
/-- E6: nothing written, nothing emitted, `ValueError` to the caller. -/
theorem test_set_frequency_rejects :
    after (.setFrequency 100000000) State.reset = { State.reset with replies := [.error .valueError] } := by decide
/-- T11. -/
theorem test_set_bytes : (after (.setMode 2) State.reset).written = [[0xFE, 0xFE, 0xE0, 0x00, 0x06, 0x02, 0xFD]] ∧
    (after (.setSquelch 253) State.reset).written = [[0xFE, 0xFE, 0xE0, 0x00, 0x14, 0xFD, 0xFD]] := by decide
/-- T11, R166. -/
theorem test_set_monitor :
    (after (.setMonitor 0x03 0x01) State.reset).written = [[0xFE, 0xFE, 0xE0, 0x00, 0x1A, 0x03, 0x01, 0xFD]] := by
  decide
/-- R160; R171 on a failed line. -/
theorem test_send : (after (.send 0x15 []) State.reset).written = [[0xFE, 0xFE, 0xE0, 0x00, 0x15, 0xFD]] ∧
    (after (.send 0x15 []) broken).written = [] ∧
    (after (.send 0x15 []) broken).replies = [.error .transportError] := by decide
/-- R73. -/
theorem test_diag_numbers : [DiagCode.discardText, .discardMalformed, .idleFlush, .payloadLength, .emptyPayload,
    .valueError, .discardOverflow, .transportError].map DiagCode.number = [1, 2, 3, 4, 5, 6, 7, 8] := by decide
/-- R9: a read inside and one across the end. -/
theorem test_mem_read : Memory.read [1, 2, 3] 1 2 = some [2, 3] ∧ Memory.read [1, 2, 3] 2 2 = none := by decide
/-- R188: RESET drops the others; PUSH before TICK. -/
theorem test_cycle_events : cycleEvents true (some 1) true = [.reset] ∧
    cycleEvents false (some 1) true = [.push 1, .tick] := by decide
/-- R169: a poll; R171: a read failure. -/
theorem test_reader : readerInput (.bytes []) = .call .nop ∧ readerInput (.bytes [1]) = .call (.feed [1]) ∧
    readerInput .failure = .ioFailure .onRead := by decide
/-- R123: the rest after an END inside an encoded frame, here a frame of its own by R102, with command 03 and no
payload (R153). -/
theorem test_rest_is_classified :
    (after (.feed (encodeFrame 0x06 [0xFD, 0xFE, 0xFE, 1, 2, 3])) State.reset).out =
      [.frame [0xFE, 0xFE, 0xE0, 0x00, 0x06, 0xFD], .frame [0xFE, 0xFE, 1, 2, 3, 0xFD],
       .diag .payloadLength 0] := by decide

/-! ### The step -/

/-- The state a step answers. -/
def stepped (s : State) : Option State :=
  match step s with
  | .next t => some t
  | .fault _ => none
  | .refused _ => none

/-- The first instruction after reset, event word 0x141. -/
theorem test_step_first : stepped (State.reset.withFetchWord 16 0x141) = some (holding [0x41] 0) := by decide
/-- A reserved event word is refused. -/
theorem test_step_refuses : stepped (State.reset.withFetchWord 16 0x001) = none := by decide
/-- A write failure is met by the next write (R171). -/
theorem test_step_write_failure : stepped { State.reset with pending := [.ioFailure .onWrite] } = some broken := by
  decide
/-- A read failure is surfaced at once and ends the reader loop (R171). -/
theorem test_step_read_failure : stepped { holding [0xFE] 3 with pending := [.ioFailure .onRead] } =
    some { holding [0xFE] 3 with readerEnded := true, replies := [.error .transportError] } := by decide
/-- After it no byte arrives, and a RESET still clears the buffer (R171). -/
theorem test_step_reader_ended :
    stepped { holding [0xFE] 3 with readerEnded := true, pending := [.code (.byte 0x41)] } =
      some { holding [0xFE] 3 with readerEnded := true } ∧
    stepped { holding [0xFE] 3 with readerEnded := true, pending := [.code (.event 0x300)] } =
      some { State.reset with readerEnded := true } := by decide
/-- E6: `set_frequency 100000000` as a call. -/
theorem test_step_set_frequency_rejects :
    stepped { State.reset with pending := [.call (.setFrequency 100000000)] } =
      some { State.reset with replies := [.error .valueError] } := by decide

/-! ### Witnesses: the hypotheses of each statement can be met together -/

theorem reset_inv : State.reset.Inv := by constructor <;> decide
theorem holding_inv : (holding [0xFE, 0xFE, 0x00, 0xE0] 499).Inv := by constructor <;> decide
theorem fullTen_inv : (fullTen true).Inv := by constructor <;> decide

theorem witness_DecodeUndoesEncode :
    (Instr.push 0xFF).wf = true ∧ encode .formula (.push 0xFF) = some (.event 0x1FF) ∧
    (Instr.getFrequencyBadlen 0 0 [1, 2, 3, 4]).wf = true ∧
    encode .printedExample (.setFrequency 99999999) =
      some (.txframe [0xFE, 0xFE, 0xE0, 0x00, 0x05, 0x99, 0x99, 0x99, 0x99, 0x00, 0xFD]) := by decide
theorem witness_EncodeUndoesDecode : read (.rxframe [0xFE, 0xFE, 0xFE, 0xE0, 0x00, 0x15, 0x7F, 0xFD]) =
    some (.otherCommand 0xFE 0xE0 0x00 [0x15, 0x7F]) := by decide
theorem witness_DecoderPicksTheTablesFirstRow : read (.event 0x200) = some .tick := by decide
theorem witness_EventWords : (0x3FF : Nat) < 1024 ∧ (0x3FF : Nat) ≠ 0x300 ∧ 0x200 ≤ (0x3FF : Nat) ∧ (0x001 : Nat) < 0x100 ∧
    { State.reset with pending := [.code (.event 0x3FF)] }.pending = .code (.event 0x3FF) :: [] := by decide
theorem witness_StepRunsTheDecodedOperation :
    (State.reset.withFetchWord 16 0x200).pending = .code (.event 0x200) :: [] ∧
    decode State.reset.cfg.txOrder (.event 0x200) = .ok .tick ∧ State.reset.readerEnded = false ∧
    { State.reset with pending := [.call .extract] }.pending = .call .extract :: [] ∧
    decode State.reset.cfg.txOrder (.rxframe [0xFD]) = .error .notAValidFrame ∧
    (State.reset.withFetchWord 16 0x001).pending = .code (.event 0x001) :: [] := ⟨rfl, rfl, rfl, rfl, rfl, rfl⟩
theorem witness_StepWithoutAnOperation : State.reset.pending = [] ∧
    { State.reset with pending := [.ioFailure .onRead] }.pending = .ioFailure .onRead :: [] ∧
    { State.reset with pending := [.ioFailure .onOpen] }.pending = .ioFailure .onOpen :: [] ∧
    { State.reset with pending := [.ioFailure .onWrite] }.pending = .ioFailure .onWrite :: [] ∧
    { State.reset with readerEnded := true }.readerEnded = true ∧ fromLine (.push 0xFD) = true ∧
    { State.reset with pending := [.call (.push 0xFD)] }.pending = .call (.push 0xFD) :: [] := by decide
theorem witness_EveryStepKeepsTheInvariants :
    ({ holding [0xFE, 0xFE, 0x00, 0xE0] 499 with pending := [.code (.event 0x200)] }).Inv ∧
    step { holding [0xFE, 0xFE, 0x00, 0xE0] 499 with pending := [.code (.event 0x200)] } =
      .next { State.reset with out := [.diag .idleFlush 4] } :=
  ⟨by constructor <;> decide, rfl⟩
theorem witness_OutputsOnlyGrow : step State.reset = .next State.reset ∧
    step { broken with pending := [.code (.event 0)], readerEnded := true } =
      .next { broken with readerEnded := true } := ⟨rfl, rfl⟩
theorem witness_OnlyValidFramesAreEmitted :
    Instr.endByte.wf = true ∧ runs .endByte (holding [0xFE, 0xFE, 0xE0, 0x00, 0x15, 0x7F] 3) = true ∧
    OutEvent.frame [0xFE, 0xFE, 0xE0, 0x00, 0x15, 0x7F, 0xFD] ∈
      (after .endByte (holding [0xFE, 0xFE, 0xE0, 0x00, 0x15, 0x7F] 3)).out := by decide
theorem witness_PushStoresDropsOrCloses : (0xFE : Byte) ≠ 0xFD ∧ State.reset.cfg.bufDepth = none ∧
    (fullTen true).cfg.bufDepth = some 10 ∧ ¬ (fullTen true).buf.length < 10 ∧ (fullTen true).ovf = true ∧
    ({ fullTen false with buf := [1, 2, 3, 4, 5, 6, 7, 8, 9] }).buf.length < 10 ∧ State.reset.ovf = false := by decide
theorem witness_ByteClassesArePushes : State.reset.cfg.bufDepth = none ∧ (0x00 : Byte) ≠ 0xFD ∧
    (0x00 : Byte) ≠ 0xFE := by decide
theorem witness_EndByteClosesTheCandidate : (fullTen true).ovf = true ∧
    (holding [0xFE] 0).ovf = false ∧ (holding [0xFE, 0xFE, 1, 2] 0).buf = 0xFE :: 0xFE :: [1, 2] ∧
    (holding [0xFE, 0xFE, 1, 2] 0).buf.length < 5 ∧ 5 ≤ (holding [0xFE, 0xFE, 1, 2, 3] 0).buf.length := by decide
theorem witness_ClassifySortsCandidates : startsOk [0xFE, 0xFD] = false ∧
    ([0xFE, 0xFE, 0xFD] : Bytes) = 0xFE :: 0xFE :: [0xFD] ∧ ([0xFE, 0xFE, 1, 2, 0xFD] : Bytes).length < 6 ∧
    ([0xFE, 0xFE, 1, 2, 3, 0xFD] : Bytes) = [0xFE, 0xFE, 1, 2, 3] ++ [] ++ [0xFD] := by decide
theorem witness_FeedCutsAndClassifiesInOrder : ([0x41] : Bytes) ≠ [] ∧ State.reset.cfg.bufDepth = none ∧
    (fullTen true).cfg.bufDepth ≠ none := by decide
theorem witness_FeedCompletes : State.reset.Inv ∧ (fullTen true).Inv := ⟨reset_inv, fullTen_inv⟩
theorem witness_FeedIsOnePushPerByte : (holding [0xFE, 0xFE, 0x00, 0xE0] 499).Inv ∧ (fullTen true).Inv :=
  ⟨holding_inv, fullTen_inv⟩
theorem witness_ChunkingDoesNotMatter : (holding [0xFE, 0xFE, 0x00, 0xE0] 499).Inv := holding_inv
theorem witness_ExtractCutsAtTheFirstEnd : (0xFD : Byte) ∉ ([0x41] : Bytes) ∧
    (holding [0x41, 0xFD, 0xFD] 0).buf = [0x41] ++ 0xFD :: [0xFD] ∧
    (holding [0xFD] 0).buf = [] ++ 0xFD :: [] := by decide
theorem witness_ExtractWithoutEndStops : (0xFD : Byte) ∉ State.reset.buf ∧
    (0xFD : Byte) ∉ (holding [0xFE] 0).buf := by decide
theorem witness_TickCountsOrFlushes : State.reset.buf = [] ∧ (holding [0x41] 498).buf ≠ [] ∧
    (holding [0x41] 498).idleCnt + 1 ≠ (holding [0x41] 498).cfg.idleTicks ∧
    (holding [0x41] 499).idleCnt + 1 = (holding [0x41] 499).cfg.idleTicks := by decide
theorem witness_FlushComesAtTheLastTick : (holding [0x41] 100).buf ≠ [] ∧
    (holding [0x41] 100).idleCnt + 399 < (holding [0x41] 100).cfg.idleTicks ∧
    (holding [0x41] 100).idleCnt + 400 = (holding [0x41] 100).cfg.idleTicks := by decide
theorem witness_IdleFlush : (holding [0x41] 0).buf ≠ [] ∧ State.reset.buf = [] := by decide
theorem witness_OverflowDropsAndDiscards : (fullTen true).cfg.bufDepth = some 10 ∧
    (fullTen true).buf.length = 10 ∧ (10 : Nat) ≠ 0 ∧ (fullTen true).ovf = true ∧
    (0xFD : Byte) ∉ ([0x00, 0xFE] : Bytes) ∧ runs .idleFlush (fullTen true) = true := by decide
theorem witness_StoredBytesKeepTheirPlace : runs (.push 0x41) State.reset = true ∧ State.reset.hasRoom = true ∧
    (fullTen true).hasRoom = false ∧ isCommand .requestFrequency = true ∧
    (Instr.getSquelchEmpty 0 0).format = .rxframe ∧ runs .requestFrequency State.reset = true := by decide
theorem witness_NoiseInFrontDestroysTheFrame : State.reset.cfg.bufDepth = none ∧ State.reset.buf = [] ∧
    State.reset.ovf = false ∧ (0xFD : Byte) ∉ (0x48 :: [0x49] : Bytes) ∧ (0x48 : Byte) ≠ 0xFE ∧
    isCandidate [0xFE, 0xFE, 0xE0, 0x00, 0x15, 0x7F, 0xFD] = true := by decide
theorem witness_DecFrame : ([0xFE, 0xFE, 0xE0, 0x00, 0xFD] : Bytes).length < 6 ∧ ([] : Bytes).length < 6 := by decide
theorem witness_DecFrameUndoesEncFrame : validFrame [0xFE, 0xFE, 0x00, 0xE0, 0x15, 0xFD] = true ∧
    isCandidate [0xFE, 0xFE, 0x00, 0xE0, 0x15, 0xFD] = true ∧
    decodeFrame [0xFE, 0xFE, 0x00, 0xE0, 0x15, 0xFD] =
      some { toAddr := 0x00, fromAddr := 0xE0, command := 0x15, payload := [] } := by decide
theorem witness_EncodedFrameSurvives : State.reset.cfg.bufDepth = none ∧ State.reset.buf = [] ∧
    State.reset.ovf = false := by decide
theorem witness_EncFreq : State.reset.cfg.txOrder = .formula ∧ (99999999 : Hz).toNat < 100000000 ∧
    100000000 ≤ (100000000 : Hz).toNat := by decide
theorem witness_EncFreqPrinted :
    ({ State.reset with cfg := { Config.standard with txOrder := .printedExample } }).cfg.txOrder =
      .printedExample ∧ (99999999 : Hz).toNat < 100000000 ∧ 100000000 ≤ (100000000 : Hz).toNat := by decide
theorem witness_EncFreqYieldsDecimalBytes :
    encodeFreq .printedExample 99999999 = some [0x99, 0x99, 0x99, 0x99, 0x00] := by decide
theorem witness_DecFreqBounds : bcdPayload [0x99, 0x99, 0x99, 0x99, 0x99] = true := by decide
theorem witness_DecFreqOfEncFreq : encodeFreq .formula 12332100 = some [0x00, 0x12, 0x33, 0x21, 0x00] ∧
    decodeFreq [0x00, 0x12, 0x33, 0x21, 0x00] = 12332100 ∧
    encodeFreq .formula 1 = some [0x10, 0x00, 0x00, 0x00, 0x00] := by decide
theorem witness_PeerFieldIsUnique : 9999999999 < 10000000000 ∧
    freqValue [0x99, 0x99, 0x99, 0x99, 0x99] = 9999999999 := by decide
theorem witness_Dispatch : ([1, 2, 3, 4, 5, 6] : Bytes).length ≠ 5 ∧ ([] : Bytes).length ≠ 5 ∧
    (0x05 : Byte) ≠ 0x03 ∧ (0x05 : Byte) ≠ 0x15 := by decide
theorem witness_ClassifyHandsOff : read (.rxframe [0xFE, 0xFE, 0xE0, 0x00, 0x15, 0x7F, 0xFD]) =
    some (.getSquelchResponse 0xE0 0x00 0x7F []) := by decide
theorem witness_RouterIgnoresAddresses :
    runs (.classify [0xFE, 0xFE, 0xE0, 0x00, 0x15, 0x7F, 0xFD]) State.reset = true ∧
    runs (.classify [0xFE, 0xFE, 0x00, 0xE0, 0x15, 0x7F, 0xFD]) State.reset = true := by decide
theorem witness_openLine : State.reset.lineFailed = false ∧ (99999999 : Hz).toNat < 100000000 := by decide
theorem witness_FailedLineWritesNothing : isCommand (.setFrequency 7410000) = true ∧
    isCommand (.setMonitor 1 2) = true ∧ broken.lineFailed = true ∧ (7410000 : Hz).toNat < 100000000 := by decide
theorem witness_agents : isCommand (.setMode 0) = true ∧ isReceive (.push 0xFD) = true ∧
    isReceive .discardOverflow = true := by decide
theorem witness_EchoedFrames :
    encode .formula (.setMonitor 1 2) = some (.txframe [0xFE, 0xFE, 0xE0, 0x00, 0x1A, 1, 2, 0xFD]) ∧
    endFree ([0xFE, 0xFE, 0xE0, 0x00, 0x1A, 1, 2, 0xFD] : Bytes).dropLast = true ∧ State.reset.buf = [] := by decide
theorem witness_SimultaneousEvents : (0x41 : Byte) ≠ 0xFD ∧ (holding [0x41] 499).hasRoom = true ∧
    (holding [0x41] 499).idleCnt + 1 = (holding [0x41] 499).cfg.idleTicks ∧
    2 ≤ (holding [0x41] 499).cfg.idleTicks ∧
    ({ State.reset with cfg := { Config.standard with idleTicks := 1 } }).cfg.idleTicks = 1 := by decide

end Sys2Proof.Tests
end

section
/-! The event word (R72): its kind `ev[9:8]` is `w / 256`, its data `ev[7:0]` is `w % 256`. -/

namespace Sys2Proof

/-- PUSH is the one kind with data, and every byte may be its data (R72). -/
theorem decodeEvent_push (b : Byte) : decodeEvent (0x100 + b.toNat) = .ok (.push b) := by
  have hb : b.toNat < 256 := b.isLt
  have hkind : (0x100 + b.toNat) / 256 = 1 := by omega
  have hdata : (0x100 + b.toNat) % 256 = b.toNat := by omega
  rw [decodeEvent, if_neg (by omega), if_pos hkind, hdata, BitVec.ofNat_toNat, BitVec.setWidth_eq]

/-- A ten-bit word of another kind than PUSH is reserved when its data is not 0 (R72). -/
theorem decodeEvent_reserved {w : Nat} (hw : w < 1024) (hkind : w / 256 ≠ 1) (hdata : w % 256 ≠ 0) :
    decodeEvent w = .error .reservedEventWord := by
  rw [decodeEvent, if_neg (by omega), if_neg hkind, if_pos hdata]

namespace Machine

/-- A step refuses a code that the decoder refuses, and names the decoder's reason (R72, R75). -/
theorem step_undecodable {s : State} {c : Code} {rest : List Input} {e : DecodeError}
    (hp : s.pending = .code c :: rest) (hd : decode s.cfg.txOrder c = .error e) :
    step s = .refused (.undecodable e) := by
  simp only [step, hp, hd]

/-- Settles O5: of the four kinds of word, PUSH takes any data and the others only 0; the arithmetic facts
say that the words left over are exactly those of another kind than PUSH with data. -/
theorem eventWordsAreTheTenBitTable : Obligations.EventWordsAreTheTenBitTable := by
  intro o
  refine ⟨rfl, decodeEvent_push, rfl, rfl, ?_⟩
  intro w hw hnop htick hreset hpush
  have hkind : w / 256 ≠ 1 := by omega
  have hdata : w % 256 ≠ 0 := by omega
  have hreserved := decodeEvent_reserved hw hkind hdata
  exact ⟨hreserved, fun _ _ hp => step_undecodable hp hreserved⟩

end Machine

end Sys2Proof
end

section
/-! The stream decoder (R100 to R109): what each of its operations does in each of its cases. The meanings are
total functions on the state, so the rules speak of those; sequences of them follow by induction. -/

namespace Sys2Proof.Machine

/-! ### The operations as functions on the state -/

@[simp] theorem exec_push (b : Byte) (s : State) : exec (.push b) s = .next (s.pushByte b) := rfl
@[simp] theorem exec_feed (bs : Bytes) (s : State) : exec (.feed bs) s = .next (s.feed bs) := rfl
@[simp] theorem exec_classify (c : Bytes) (s : State) :
    exec (.classify c) s = .next (s.emitAll (candidateEvents c)) := rfl
@[simp] theorem exec_dispatch (m : Message) (s : State) :
    exec (.dispatch m) s = .next (s.emitAll (routeEvents m)) := rfl
@[simp] theorem exec_idleFlush (s : State) : exec .idleFlush s = .next s.idleFlush := rfl

/-- PUSHes in a row complete, each in the state the one before left (R104). -/
theorem execAll_push (bs : Bytes) (s : State) :
    execAll (bs.map .push) s = .next (bs.foldl State.pushByte s) := by
  induction bs generalizing s with
  | nil => rfl
  | cons b bs ih => exact ih (s.pushByte b)

/-- CLASSIFYs in a row emit the candidates' events in the candidates' order, and do nothing else. -/
theorem execAll_classify (cs : List Bytes) (s : State) :
    execAll (cs.map .classify) s = .next (s.emitAll (cs.flatMap candidateEvents)) := by
  induction cs generalizing s with
  | nil => simp [execAll, State.emitAll_nil]
  | cons c cs ih => simp [execAll, ih, State.emitAll_emitAll]

/-! ### PUSH (R103) -/

/-- There is room in an unbounded buffer, and in a finite one that is not full (R22). -/
theorem State.hasRoom_iff (s : State) :
    s.hasRoom = true ↔ s.cfg.bufDepth = none ∨ ∃ d, s.cfg.bufDepth = some d ∧ s.buf.length < d := by
  unfold State.hasRoom
  cases s.cfg.bufDepth <;> simp

/-- There is no room in a full finite buffer only (R22). -/
theorem State.hasRoom_eq_false_iff (s : State) :
    s.hasRoom = false ↔ ∃ d, s.cfg.bufDepth = some d ∧ ¬ s.buf.length < d := by
  unfold State.hasRoom
  cases s.cfg.bufDepth <;> simp

theorem State.pushByte_stored {s : State} {b : Byte} (hb : b ≠ Config.endMark) (hr : s.hasRoom = true) :
    s.pushByte b = { s with buf := s.buf ++ [b], idleCnt := 0 } := by
  rw [State.pushByte, if_neg hb, if_pos hr, Memory.append]

theorem State.pushByte_dropped {s : State} {b : Byte} (hb : b ≠ Config.endMark) (hr : s.hasRoom = false) :
    s.pushByte b = { s with idleCnt := 0, ovf := true } := by
  simp [State.pushByte, hb, hr]

/-- The overflow discard (R109), field by field. -/
theorem State.discardOverflow_eq (s : State) :
    s.discardOverflow = { s with buf := [], idleCnt := 0, ovf := false,
                                 out := s.out ++ [.diag .discardOverflow (s.buf.length + 1)] } := rfl

theorem State.pushByte_end_overflowed {s : State} (ho : s.ovf = true) :
    s.pushByte Config.endMark = s.discardOverflow := by
  simp [State.pushByte, ho]

theorem State.pushByte_end_closes {s : State} (ho : s.ovf = false) :
    s.pushByte Config.endMark = s.emptied.emitAll (candidateEvents (s.buf ++ [Config.endMark])) := by
  simp [State.pushByte, ho, Memory.append]

/-- A full buffer drops every byte other than END, and stays full (R109). -/
theorem State.foldl_pushByte_dropped {s : State} {bs : Bytes} (hr : s.hasRoom = false)
    (hend : Config.endMark ∉ bs) (hne : bs ≠ []) :
    bs.foldl State.pushByte s = { s with idleCnt := 0, ovf := true } := by
  induction bs generalizing s with
  | nil => exact absurd rfl hne
  | cons b bs ih =>
    obtain ⟨hb, hbs⟩ : Config.endMark ≠ b ∧ Config.endMark ∉ bs := by simpa using hend
    rw [List.foldl_cons, State.pushByte_dropped hb.symm hr]
    cases bs with
    | nil => rfl
    | cons c cs =>
      have hfull : State.hasRoom { s with idleCnt := 0, ovf := true } = false := hr
      exact ih hfull hbs (by simp)

/-- Settles O13: one branch of PUSH per clause. -/
theorem pushStoresDropsOrCloses : Obligations.PushStoresDropsOrCloses := by
  intro b s
  refine ⟨fun hb hroom => ?_, fun hb hfull => ?_, fun ho => ?_, fun ho => ?_⟩
  · rw [exec_push, State.pushByte_stored hb (s.hasRoom_iff.2 hroom)]
  · rw [exec_push, State.pushByte_dropped hb (s.hasRoom_eq_false_iff.2 hfull)]
  · rw [List.length_append]
    exact congrArg Host.Outcome.next ((State.pushByte_end_overflowed ho).trans s.discardOverflow_eq)
  · exact congrArg Host.Outcome.next (State.pushByte_end_closes ho)

/-! ### CLASSIFY (R102) -/

/-- Emitting FRAME and then dispatching the message is emitting both in that order (R102, R110). -/
theorem exec_dispatch_after_frame (c : Bytes) (m : Message) (s : State) :
    exec (.dispatch m) { s with out := s.out ++ [.frame c] } = .next (s.emitAll (.frame c :: routeEvents m)) := by
  rw [exec_dispatch]
  exact congrArg Host.Outcome.next (State.emitAll_emitAll s [.frame c] (routeEvents m))

/-- Settles O16: one outcome of the classifier per clause. -/
theorem classifySortsCandidates : Obligations.ClassifySortsCandidates := by
  intro c s
  refine ⟨fun htext => ?_, fun hstart hshort => ?_, fun dst src k z p hc => ?_⟩
  · have hno : startsOk c = false := Bool.eq_false_iff.2 fun h => htext ((startsOk_iff c).1 h)
    rw [exec_classify, candidateEvents_text c hno, State.emitAll]
  · rw [exec_classify, candidateEvents_malformed c ((startsOk_iff c).2 hstart) hshort, State.emitAll]
  · have hvalid : candidateEvents c = .frame c :: routeEvents ⟨dst, src, k, p⟩ :=
      hc ▸ candidateEvents_valid dst src k z p
    rw [exec_classify, hvalid, exec_dispatch_after_frame]

/-! ### FEED (R100, R104, R108) -/

@[simp] theorem State.feed_nil (s : State) : s.feed [] = s := rfl

/-- FEED of at least one byte into an unbounded buffer: the loop has cut the whole stream (R100). -/
theorem State.feed_unbounded {s : State} {bs : Bytes} (hne : bs ≠ []) (hd : s.cfg.bufDepth = none) :
    s.feed bs =
      { s with buf := (cutStream (s.buf ++ bs)).2, idleCnt := 0,
               out := s.out ++ (cutStream (s.buf ++ bs)).1.flatMap candidateEvents } := by
  rw [State.feed, if_neg hne, hd]
  exact drain_eq (s.buf ++ bs) _ rfl

/-- FEED into a finite buffer is the PUSH sequence (R104). -/
theorem State.feed_bounded {s : State} {bs : Bytes} {d : Nat} (hd : s.cfg.bufDepth = some d) :
    s.feed bs = bs.foldl State.pushByte s := by
  cases bs with
  | nil => rfl
  | cons b bs => rw [State.feed, if_neg (List.cons_ne_nil b bs), hd]

/-- Settles O17: what FEED's loop leaves is what the CLASSIFYs in a row leave. -/
theorem feedCutsAndClassifiesInOrder : Obligations.FeedCutsAndClassifiesInOrder := by
  intro bs s
  refine ⟨fun hne hd => ?_, rfl, fun hd => ?_⟩
  · rw [exec_feed, State.feed_unbounded hne hd, execAll_classify, State.emitAll]
  · obtain ⟨d, hd⟩ := Option.ne_none_iff_exists'.1 hd
    rw [exec_feed, State.feed_bounded hd, execAll_push]

/-! ### EXTRACT (R101) -/

/-- Settles O22: the cut at the first END, answered to the caller. -/
theorem extractCutsAtTheFirstEnd : Obligations.ExtractCutsAtTheFirstEnd := by
  intro pre post s hpre hbuf
  have hend : s.buf.hasEnd = true := by
    rw [Memory.hasEnd_iff, hbuf]
    exact List.mem_append_right pre List.mem_cons_self
  have hcut : s.buf.takeDrop s.buf.firstEnd = (pre ++ [Config.endMark], post) := by
    rw [hbuf]
    exact Memory.takeDrop_firstEnd pre post hpre
  have hrun : exec .extract s =
      .next ({ s with buf := (s.buf.takeDrop s.buf.firstEnd).2 }.answer
        (.bytes (s.buf.takeDrop s.buf.firstEnd).1)) := if_pos hend
  rw [hrun, hcut]
  rfl

/-! ### IDLE_FLUSH and TICK (R105, R106) -/

/-- The idle timer runs exactly while the buffer holds a byte (R24). -/
theorem State.armed_iff (s : State) : s.armed = true ↔ s.buf ≠ [] := decide_eq_true_iff

theorem State.idleFlush_of_ne_nil {s : State} (h : s.buf ≠ []) :
    s.idleFlush = { s with buf := [], idleCnt := 0, ovf := false,
                           out := s.out ++ [.diag .idleFlush s.buf.length] } := by
  rw [State.idleFlush, if_pos (s.armed_iff.2 h)]
  rfl

/-- A flush clears `ovf`, of whatever buffer (R25, R109). -/
theorem State.idleFlush_ovf (s : State) : s.idleFlush.ovf = false := by
  unfold State.idleFlush
  split <;> rfl

theorem execTick_idle {s : State} (h : s.buf = []) : exec .tick s = .next s :=
  if_neg fun ha => s.armed_iff.1 ha h

/-- TICK on a buffer with bytes flushes at expiry and counts before it (R105). -/
theorem execTick_armed {s : State} (h : s.buf ≠ []) :
    exec .tick s =
      if s.idleCnt + 1 = s.cfg.idleTicks then .next s.idleFlush
      else .next { s with idleCnt := s.idleCnt + 1 } := by
  change execTick s = _
  simp [execTick, s.armed_iff.2 h, State.expires]

/-- Settles O24: the two tests of TICK, on the buffer and on the count. -/
theorem tickCountsOrFlushes : Obligations.TickCountsOrFlushes := by
  intro s
  refine ⟨execTick_idle, fun hbuf hcnt => ?_, fun hbuf hcnt => ?_⟩
  · rw [execTick_armed hbuf, if_neg hcnt]
  · rw [execTick_armed hbuf, if_pos hcnt, State.idleFlush_of_ne_nil hbuf]

/-- Settles O26. -/
theorem idleFlushDiscardsTheBuffer : Obligations.IdleFlushDiscardsTheBuffer := by
  intro s hbuf
  rw [exec_idleFlush, State.idleFlush_of_ne_nil hbuf]

/-! ### Overflow (R109), NOP (R108) -/

/-- Settles O28: a full buffer has no room, so PUSH takes its dropping branch; END and the flush clear the
mark. -/
theorem overflowDropsAndDiscards : Obligations.OverflowDropsAndDiscards := by
  intro s d hd hlen _
  have hfull : s.hasRoom = false := s.hasRoom_eq_false_iff.2 ⟨d, hd, hlen.not_lt⟩
  refine ⟨fun b hb => ?_, fun bs hend hne => ?_, fun ho => ?_, fun t ht => ?_⟩
  · rw [exec_push, State.pushByte_dropped hb hfull]
  · rw [execAll_push, State.foldl_pushByte_dropped hfull hend hne]
  · exact congrArg Host.Outcome.next ((State.pushByte_end_overflowed ho).trans s.discardOverflow_eq)
  · obtain rfl : s.idleFlush = t := Host.Outcome.next.inj ht
    exact s.idleFlush_ovf

/-- Settles O30: NOP answers its state, and so does FEED by its test for no bytes. -/
theorem nopAndEmptyFeedChangeNothing : Obligations.NopAndEmptyFeedChangeNothing :=
  fun s => ⟨rfl, congrArg Host.Outcome.next s.feed_nil⟩

end Sys2Proof.Machine
end

section
/-! The message codec (R120, R121): DEC_FRAME has one outcome per answer of `decodeFrame`, ENC_FRAME has one
outcome; the values themselves are the codec's laws. -/

namespace Sys2Proof.Machine

/-- A decoded message goes to the caller (R120). -/
theorem execDecFrame_of_some {f : Bytes} {m : Message} (h : decodeFrame f = some m) (s : State) :
    exec (.decFrame f) s = .next (s.answer (.message m)) := by
  change execDecFrame f s = _
  rw [execDecFrame, h]

/-- `MalformedFrameError` is one DIAG with the length found (R120, R9). -/
theorem execDecFrame_of_none {f : Bytes} (h : decodeFrame f = none) (s : State) :
    exec (.decFrame f) s = .next (s.raise .discardMalformed f.length) := by
  change execDecFrame f s = _
  rw [execDecFrame, h]

@[simp] theorem exec_encFrame (k : Byte) (p : Bytes) (s : State) :
    exec (.encFrame k p) s = .next (s.answer (.bytes (encodeFrame k p))) := rfl

/-- Settles O34: the two answers of `decodeFrame`, by the length of the string. -/
theorem decFrameTakesTheFieldsOut : Obligations.DecFrameTakesTheFieldsOut := by
  refine ⟨fun x y dst src k z p s => ?_, fun f s hshort => ?_⟩
  · exact execDecFrame_of_some (decodeFrame_fields x y dst src k z p) s
  · rw [execDecFrame_of_none (decodeFrame_short f hshort), State.raise_eq, State.emitAll]

/-- Settles O35: ENC_FRAME has no test, and the four constants of its header and its END are those bytes. -/
theorem encFrameWrapsThePayload : Obligations.EncFrameWrapsThePayload :=
  fun k p s => exec_encFrame k p s

end Sys2Proof.Machine
end

section
/-! The BCD codec (R130 to R132): one lemma per outcome of each operation, and the arithmetic of the packed
bytes and of the weighted sum. -/

namespace Sys2Proof.Machine

/-! ### DEC_SQL (R132) -/

@[simp] theorem exec_decSql_cons (v : Byte) (rest : Bytes) (s : State) :
    exec (.decSql (v :: rest)) s = .next (s.answer (.level v)) := rfl

@[simp] theorem exec_decSql_nil (s : State) : exec (.decSql []) s = .next (s.raise .emptyPayload 0) := rfl

/-- Settles O45: the payload is empty or has a first byte, and `emptyPayload` is raised on the empty one. -/
theorem decSqlTakesTheFirstByte : Obligations.DecSqlTakesTheFirstByte := by
  refine ⟨fun v rest s => ?_, fun s => ?_⟩
  · rw [exec_decSql_cons, State.answer]
  · rw [exec_decSql_nil, State.raise_eq, State.emitAll]

/-! ### DEC_FREQ (R131) -/

@[simp] theorem exec_decFreq (b0 b1 b2 b3 b4 : Byte) (s : State) :
    exec (.decFreq b0 b1 b2 b3 b4) s = .next (s.answer (.frequency (decodeFreq [b0, b1, b2, b3, b4]))) := rfl

/-- The loop of DEC_FREQ on five bytes, multiplied out (R131). -/
theorem freqValue_eq_wireValue (b0 b1 b2 b3 b4 : Byte) :
    freqValue [b0, b1, b2, b3, b4] = wireValue b0 b1 b2 b3 b4 := by
  simp only [freqValue, List.foldl_cons, List.foldl_nil, accumulate, hi_eq, lo_eq, wireValue]
  ring

/-- Every byte weighs at most 165, so five of them at most 165 * 101010101 (R134 (b)). -/
theorem wireValue_le (b0 b1 b2 b3 b4 : Byte) : wireValue b0 b1 b2 b3 b4 ≤ 16666666665 := by
  have h0 := pairValue_le b0
  have h1 := pairValue_le b1
  have h2 := pairValue_le b2
  have h3 := pairValue_le b3
  have h4 := pairValue_le b4
  unfold wireValue
  omega

/-- The sum of five bytes fits the 34-bit port, so nothing is cut off (R134 (b)). -/
theorem decodeFreq_toNat (b0 b1 b2 b3 b4 : Byte) :
    (decodeFreq [b0, b1, b2, b3, b4]).toNat = wireValue b0 b1 b2 b3 b4 := by
  have hfits := wireValue_le b0 b1 b2 b3 b4
  rw [decodeFreq, BitVec.toNat_ofNat, freqValue_eq_wireValue, Nat.mod_eq_of_lt (by omega)]

/-- Settles O41: the value answered is the loop's, which is the sum and does not overflow. -/
theorem decFreqIsTheExactSum : Obligations.DecFreqIsTheExactSum :=
  fun b0 b1 b2 b3 b4 s => ⟨decodeFreq [b0, b1, b2, b3, b4], exec_decFreq b0 b1 b2 b3 b4 s,
    decodeFreq_toNat b0 b1 b2 b3 b4⟩

/-! ### ENC_FREQ (R130) -/

/-- An encoded field goes to the caller (R130). -/
theorem execEncFreq_of_some {hz : Hz} {s : State} {p : Bytes} (h : encodeFreq s.cfg.txOrder hz = some p) :
    exec (.encFreq hz) s = .next (s.answer (.bytes p)) := by
  change execEncFreq hz s = _
  rw [execEncFreq, h]

/-- `ValueError` goes to the caller, from the limit on (R130, R183). -/
theorem execEncFreq_of_limit_le {hz : Hz} (h : 100000000 ≤ hz.toNat) (s : State) :
    exec (.encFreq hz) s = .next (s.raiseToCaller .valueError) := by
  change execEncFreq hz s = _
  rw [execEncFreq, (encodeFreq_none _ hz).2 h]

/-- Two digits of a number in one byte, as powers of ten (R136). -/
theorem pack_digit_toNat (n j k : Nat) :
    (pack (digit n j) (digit n k)).toNat = 16 * (n / 10 ^ (7 - j) % 10) + n / 10 ^ (7 - k) % 10 :=
  pack_toNat _ _ (digit_lt n j) (digit_lt n k)

/-- Settles O38: under the formula's order byte `j` packs digit `7 - 2j` high and digit `6 - 2j` low. -/
theorem encFreqPacksLeastSignificantFirst : Obligations.EncFreqPacksLeastSignificantFirst := by
  intro hz s horder
  refine ⟨fun hlt => ?_, fun hlimit => execEncFreq_of_limit_le hlimit s⟩
  have hfield := (encodeFreq_some s.cfg.txOrder hz _).2 ⟨hlt, rfl⟩
  refine ⟨_, _, _, _, execEncFreq_of_some hfield, ?_⟩
  simp [horder, packPair, pack_digit_toNat]

end Sys2Proof.Machine
end

section
/-! The router (R150 to R157): one rule for each row of its table, by the command and the payload. -/

namespace Sys2Proof.Machine

/-- Command 03 with a payload of the right length updates the frequency (R150). -/
theorem routeEvents_frequency {m : Message} (hcmd : m.command = Config.cmdGetFrequency)
    (hlen : m.payload.length = Config.freqPayloadLen) :
    routeEvents m = [.freqUpdate (decodeFreq m.payload)] := by
  rw [routeEvents, if_pos hcmd, if_pos hlen]

/-- Command 03 with another length is reported with the length found (R153). -/
theorem routeEvents_frequency_badlen {m : Message} (hcmd : m.command = Config.cmdGetFrequency)
    (hlen : m.payload.length ≠ Config.freqPayloadLen) :
    routeEvents m = [.diag .payloadLength m.payload.length] := by
  rw [routeEvents, if_pos hcmd, if_neg hlen]

/-- Command 15 with a payload updates the squelch level to its first byte (R150). -/
theorem routeEvents_squelch {m : Message} {v : Byte} {rest : Bytes}
    (hcmd : m.command = Config.cmdGetSquelch) (hp : m.payload = v :: rest) :
    routeEvents m = [.sqlUpdate v] := by
  simp [routeEvents, hcmd, hp, decodeSquelch]

/-- Command 15 without a payload is reported (R153). -/
theorem routeEvents_squelch_empty {m : Message} (hcmd : m.command = Config.cmdGetSquelch)
    (hp : m.payload = []) : routeEvents m = [.diag .emptyPayload 0] := by
  simp [routeEvents, hcmd, hp, decodeSquelch]

/-- Any other command is ignored in silence (R152). -/
theorem routeEvents_other {m : Message} (hfreq : m.command ≠ Config.cmdGetFrequency)
    (hsql : m.command ≠ Config.cmdGetSquelch) : routeEvents m = [] := by
  rw [routeEvents, if_neg hfreq, if_neg hsql]

/-- Settles O46: DISPATCH emits the events of the message's row, and the value of the frequency row is the
exact sum of its five bytes. -/
theorem dispatchRoutesByCommandAndLength : Obligations.DispatchRoutesByCommandAndLength := by
  intro m s
  refine ⟨fun hcmd b0 b1 b2 b3 b4 hp => ?_, fun hcmd hlen => ?_, fun hcmd v rest hp => ?_,
    fun hcmd hp => ?_, fun hfreq hsql => ?_⟩
  · have hlen : m.payload.length = Config.freqPayloadLen := congrArg List.length hp
    refine ⟨decodeFreq [b0, b1, b2, b3, b4], decodeFreq_toNat b0 b1 b2 b3 b4, ?_⟩
    rw [exec_dispatch, routeEvents_frequency hcmd hlen, hp, State.emitAll]
  · rw [exec_dispatch, routeEvents_frequency_badlen hcmd hlen, State.emitAll]
  · rw [exec_dispatch, routeEvents_squelch hcmd hp, State.emitAll]
  · rw [exec_dispatch, routeEvents_squelch_empty hcmd hp, State.emitAll]
  · rw [exec_dispatch, routeEvents_other hfreq hsql, State.emitAll_nil]

end Sys2Proof.Machine
end

section
/-! The command agent (R160 to R164): an operation with one operand byte is SEND of that byte, and what SEND
writes on an open line is the law `State.sendFrame_open`. -/

namespace Sys2Proof.Machine

@[simp] theorem exec_setMode (m : Byte) (s : State) :
    exec (.setMode m) s = .next (s.sendFrame Config.cmdSetMode [m]) := rfl

@[simp] theorem exec_setSquelch (v : Byte) (s : State) :
    exec (.setSquelch v) s = .next (s.sendFrame Config.cmdSetSquelch [v]) := rfl

/-- A payload of one byte stands unchanged between the header and END, whatever the byte (R121). -/
theorem encodeFrame_singleton (k b : Byte) :
    encodeFrame k [b] = [0xFE, 0xFE, 0xE0, 0x00, k, b, 0xFD] := rfl

/-- Settles O52: both operations are SEND of their byte; the frame is `encodeFrame_singleton` at their
commands 06 and 14. -/
theorem setModeAndSquelchSendTheByte : Obligations.SetModeAndSquelchSendTheByte := by
  intro s hopen
  refine ⟨fun m => ?_, fun v => ?_⟩
  · rw [exec_setMode, s.sendFrame_open _ _ hopen, encodeFrame_singleton, Config.cmdSetMode]
  · rw [exec_setSquelch, s.sendFrame_open _ _ hopen, encodeFrame_singleton, Config.cmdSetSquelch]

end Sys2Proof.Machine
end

section
/-! RESET and power-on (R210, R211). -/

namespace Sys2Proof.Machine

@[simp] theorem exec_reset (s : State) : exec .reset s = .next s.emptied := rfl

/-- The states that emptying keeps are those whose triple has its reset values (R31). -/
theorem State.emptied_eq_self_iff (s : State) :
    s.emptied = s ↔ s.buf = [] ∧ s.idleCnt = 0 ∧ s.ovf = false := by
  constructor
  · intro h
    exact ⟨congrArg State.buf h.symm, congrArg State.idleCnt h.symm, congrArg State.ovf h.symm⟩
  · rintro ⟨hbuf, hcnt, hovf⟩
    ext1 <;> simp [hbuf, hcnt, hovf]

/-- Settles O8: the elements have their values by the definition of the reset state, and RESET keeps a state
whose triple has them (`State.emptied_eq_self_iff`). -/
theorem powerOnIsTheResetState : Obligations.PowerOnIsTheResetState := by
  have hkept : State.reset.emptied = State.reset :=
    State.reset.emptied_eq_self_iff.2 ⟨rfl, rfl, rfl⟩
  refine ⟨rfl, rfl, rfl, rfl, rfl, ?_, rfl⟩
  rw [exec_reset, hkept]

end Sys2Proof.Machine
end

section
/-! The encodings (R60 to R77): what shape the decoded strings have, and decoder and encoder as inverses of
each other, format by format. -/

namespace Sys2Proof

open Machine

/-! ### Frames as byte strings (R60, R62) -/

/-- No byte of the string is END, as a fact about membership. -/
theorem endFree_iff (bs : Bytes) : endFree bs = true ↔ Config.endMark ∉ bs := by
  simp [endFree]

theorem endFree_cons (b : Byte) (bs : Bytes) :
    endFree (b :: bs) = true ↔ b ≠ Config.endMark ∧ endFree bs = true := by
  rw [endFree_iff, endFree_iff, List.mem_cons, not_or, ne_comm]

/-- A candidate is a string without END, and END after it (R62). -/
theorem isCandidate_iff (c : Bytes) :
    isCandidate c = true ↔ ∃ bs, Config.endMark ∉ bs ∧ c = bs ++ [Config.endMark] := by
  rw [isCandidate, Bool.and_eq_true, decide_eq_true_eq, endFree_iff]
  constructor
  · rintro ⟨hlast, hfree⟩
    obtain ⟨bs, rfl⟩ := List.getLast?_eq_some_iff.1 hlast
    exact ⟨bs, by simpa using hfree, rfl⟩
  · rintro ⟨bs, hfree, rfl⟩
    simpa using hfree

/-- A command other than END between the addresses and the payload keeps the fields END-free (R70). -/
theorem endFree_with_command {dst src k : Byte} {p : Bytes} (h : endFree (dst :: src :: p) = true)
    (hk : k ≠ Config.endMark) : endFree (dst :: src :: k :: p) = true := by
  simp only [endFree_cons] at h ⊢
  obtain ⟨hdst, hsrc, hp⟩ := h
  exact ⟨hdst, hsrc, hk, hp⟩

/-- A candidate that is a valid frame has the layout of R60, with END-free fields. -/
theorem exists_rxBytes_of_validFrame {f : Bytes} (hv : validFrame f = true) (hc : isCandidate f = true) :
    ∃ dst src k p, endFree (dst :: src :: k :: p) = true ∧ f = rxBytes dst src k p := by
  obtain ⟨bs, hfree, rfl⟩ := (isCandidate_iff f).1 hc
  rw [validFrame, Bool.and_eq_true, decide_eq_true_eq] at hv
  obtain ⟨hs, hlen⟩ := hv
  match bs with
  | [] | [_] | [_, _] | [_, _, _] | [_, _, _, _] => simp at hlen
  | x :: y :: dst :: src :: k :: p =>
    obtain ⟨rfl, rfl⟩ : x = Config.startMark ∧ y = Config.startMark := by simpa [startsOk] using hs
    exact ⟨dst, src, k, p, (endFree_iff _).2 (by simp_all), rfl⟩

/-! ### Event words and bytes (R61, R72) -/

/-- An event word that decodes is the word of its operation (R72). -/
theorem encode_of_decodeEvent {o : NibbleOrder} {w : Nat} {i : Instr} (h : decodeEvent w = .ok i) :
    i.wf = true ∧ encode o i = some (.event w) := by
  unfold decodeEvent at h
  split at h
  · cases h
  split at h
  · next hkind =>
    cases h
    have hword : 0x100 + (BitVec.ofNat 8 (w % 256)).toNat = w := by
      simp only [BitVec.toNat_ofNat]
      omega
    exact ⟨rfl, congrArg (fun v => some (Code.event v)) hword⟩
  split at h
  · cases h
  split at h
  · cases h
    obtain rfl : w = 0x000 := by omega
    exact ⟨rfl, rfl⟩
  split at h
  · cases h
    obtain rfl : w = 0x200 := by omega
    exact ⟨rfl, rfl⟩
  · cases h
    obtain rfl : w = 0x300 := by omega
    exact ⟨rfl, rfl⟩

/-- A DATA byte is read as itself, END and START being shut out (R61). -/
theorem decodeByte_data {b : Byte} (h : (Instr.dataByte b).wf = true) : decodeByte b = .dataByte b := by
  obtain ⟨hend, hstart⟩ : b ≠ Config.endMark ∧ b ≠ Config.startMark := by simpa [Instr.wf] using h
  rw [decodeByte, if_neg hend, if_neg hstart]

/-- Every byte is the byte of the operation it stands for (R61). -/
theorem encode_decodeByte (o : NibbleOrder) (b : Byte) :
    (decodeByte b).wf = true ∧ encode o (decodeByte b) = some (.byte b) := by
  by_cases hend : b = Config.endMark
  · subst hend; exact ⟨rfl, rfl⟩
  by_cases hstart : b = Config.startMark
  · subst hstart; exact ⟨rfl, rfl⟩
  have hwf : (Instr.dataByte b).wf = true := by simp [Instr.wf, hend, hstart]
  rw [decodeByte_data hwf]
  exact ⟨hwf, rfl⟩

/-! ### Received frames (R75, R77, R157) -/

/-- Command 03 with another payload length than 5 is the second row of the router's table (R157). -/
theorem rowOfMessage_badlen {dst src : Byte} {p : Bytes} (h : p.length ≠ Config.freqPayloadLen) :
    rowOfMessage { toAddr := dst, fromAddr := src, command := Config.cmdGetFrequency, payload := p } =
      .getFrequencyBadlen dst src p := by
  simp only [rowOfMessage, if_true]
  split
  · exact absurd rfl h
  · rfl

/-- A command that is neither 03 nor 15 is the last row of the router's table (R157). -/
theorem rowOfMessage_other {m : Message} (hfreq : m.command ≠ Config.cmdGetFrequency)
    (hsql : m.command ≠ Config.cmdGetSquelch) :
    rowOfMessage m = .otherCommand m.toAddr m.fromAddr m.command m.payload := by
  rw [rowOfMessage, if_neg hfreq, if_neg hsql]

/-- The row of a message without END is well-formed, and its code is the frame with that message (R77). -/
theorem encode_rowOfMessage (o : NibbleOrder) {dst src k : Byte} {p : Bytes}
    (h : endFree (dst :: src :: k :: p) = true) :
    (rowOfMessage { toAddr := dst, fromAddr := src, command := k, payload := p }).wf = true ∧
      encode o (rowOfMessage { toAddr := dst, fromAddr := src, command := k, payload := p }) =
        some (.rxframe (rxBytes dst src k p)) := by
  obtain ⟨hdst, hsrc, hk, hp⟩ : dst ≠ Config.endMark ∧ src ≠ Config.endMark ∧ k ≠ Config.endMark ∧
      endFree p = true := by simpa only [endFree_cons] using h
  have hfields : endFree (dst :: src :: p) = true := by simp only [endFree_cons]; exact ⟨hdst, hsrc, hp⟩
  by_cases hfreq : k = Config.cmdGetFrequency
  · subst hfreq
    by_cases hlen : p.length = Config.freqPayloadLen
    · match p, hlen with
      | [_, _, _, _, _], _ => exact ⟨hfields, rfl⟩
    · rw [rowOfMessage_badlen hlen]
      exact ⟨Bool.and_eq_true_iff.2 ⟨hfields, decide_eq_true hlen⟩, rfl⟩
  by_cases hsql : k = Config.cmdGetSquelch
  · subst hsql
    cases p with
    | nil => exact ⟨hfields, rfl⟩
    | cons v rest => exact ⟨hfields, rfl⟩
  · rw [rowOfMessage_other hfreq hsql]
    exact ⟨by simp [Instr.wf, h, hfreq, hsql], rfl⟩

/-- A received frame that decodes has the layout of R60, and is read as the row of its message. -/
theorem exists_rxBytes_of_decodeRx {f : Bytes} {i : Instr} (h : decodeRx f = .ok i) :
    ∃ dst src k p, endFree (dst :: src :: k :: p) = true ∧ f = rxBytes dst src k p ∧
      i = rowOfMessage { toAddr := dst, fromAddr := src, command := k, payload := p } := by
  have hc : isCandidate f = true := by
    by_contra hn
    rw [decodeRx, if_pos (Bool.eq_false_iff.2 hn)] at h
    cases h
  have hv : validFrame f = true := by
    by_contra hn
    rw [decodeRx, if_neg (by simp [hc]), if_pos (Bool.eq_false_iff.2 hn)] at h
    cases h
  obtain ⟨dst, src, k, p, hfree, rfl⟩ := exists_rxBytes_of_validFrame hv hc
  rw [decodeRx_rxBytes dst src k p hfree] at h
  exact ⟨dst, src, k, p, hfree, rfl, (Except.ok.inj h).symm⟩

/-! ### Transmitted frames (R74, R121, R161) -/

/-- The field that ENC_FREQ makes is read as its SET_FREQUENCY (R161). -/
theorem decodeTxFields_setFrequency {o : NibbleOrder} {hz : Hz} {p : Bytes}
    (h : encodeFreq o hz = some p) :
    decodeTxFields o Config.cmdSetFrequency p = .ok (.setFrequency hz) := by
  have hlen : p.length = Config.freqPayloadLen := by
    rw [((encodeFreq_some o hz p).1 h).2]
    rfl
  have hfreq : Config.cmdSetFrequency ≠ Config.cmdGetFrequency := by decide
  have hsql : Config.cmdSetFrequency ≠ Config.cmdGetSquelch := by decide
  simp only [decodeTxFields, if_neg hfreq, if_neg hsql, if_pos hlen, if_true,
    freqOfField_encodeFreq o hz p h]

/-- A field is read as an `hz` only if it is what ENC_FREQ makes of that `hz` (R130, R161). -/
theorem encodeFreq_of_freqOfField {o : NibbleOrder} {hz : Hz} {p : Bytes}
    (h : freqOfField o p = some hz) : encodeFreq o hz = some p := by
  unfold freqOfField at h
  split at h
  · dsimp only at h
    split at h
    · next henc => exact Option.some.inj h ▸ henc
    · cases h
  · cases h

/-- A command and payload that decode are those of the operation's frame (R74). -/
theorem encode_of_decodeTxFields {o : NibbleOrder} {k : Byte} {p : Bytes} {i : Instr}
    (h : decodeTxFields o k p = .ok i) :
    i.wf = true ∧ encode o i = some (.txframe (encodeFrame k p)) := by
  unfold decodeTxFields at h
  split at h
  · next hk =>
    split at h <;> cases h
    exact ⟨rfl, hk ▸ rfl⟩
  split at h
  · next hk =>
    split at h <;> cases h
    exact ⟨rfl, hk ▸ rfl⟩
  split at h
  · next hk =>
    split at h
    · split at h
      · next hz hfield =>
        cases h
        refine ⟨rfl, ?_⟩
        rw [encode, encodeFreq_of_freqOfField hfield, hk]
        rfl
      · cases h
    · cases h
  split at h
  · next hk =>
    split at h <;> cases h
    exact ⟨rfl, hk ▸ rfl⟩
  split at h
  · next hk =>
    split at h <;> cases h
    exact ⟨rfl, hk ▸ rfl⟩
  split at h
  · next hk =>
    split at h <;> cases h
    exact ⟨rfl, hk ▸ rfl⟩
  · cases h

/-- A transmitted frame that decodes is the frame of its operation (R74, R121). -/
theorem encode_of_decodeTx {o : NibbleOrder} {f : Bytes} {i : Instr} (h : decodeTx o f = .ok i) :
    i.wf = true ∧ encode o i = some (.txframe f) := by
  unfold decodeTx at h
  split at h
  · cases h
  split at h
  · next hf =>
    rw [hf]
    exact encode_of_decodeTxFields h
  · cases h

/-! ### The statements -/

/-- The code of a well-formed operation decodes to it, in each of the four formats. -/
theorem decode_of_encode {o : NibbleOrder} {i : Instr} {c : Code} (hwf : i.wf = true)
    (hc : encode o i = some c) : decode o c = .ok i := by
  cases i with
  | nop | tick | reset | endByte | startByte => cases hc; rfl
  | push b => cases hc; exact decodeEvent_push b
  | dataByte b => cases hc; exact congrArg Except.ok (decodeByte_data hwf)
  | getFrequencyResponse dst src b0 b1 b2 b3 b4 =>
    cases hc
    exact decodeRx_rxBytes dst src _ _ (endFree_with_command hwf Config.cmdGetFrequency_ne_endMark)
  | getFrequencyBadlen dst src p =>
    cases hc
    obtain ⟨hfree, hlen⟩ : endFree (dst :: src :: p) = true ∧ p.length ≠ Config.freqPayloadLen := by
      simpa only [Instr.wf, Bool.and_eq_true, decide_eq_true_eq] using hwf
    rw [decode, decodeRx_rxBytes dst src _ _
      (endFree_with_command hfree Config.cmdGetFrequency_ne_endMark), rowOfMessage_badlen hlen]
  | getSquelchResponse dst src level rest =>
    cases hc
    exact decodeRx_rxBytes dst src _ _ (endFree_with_command hwf Config.cmdGetSquelch_ne_endMark)
  | getSquelchEmpty dst src =>
    cases hc
    exact decodeRx_rxBytes dst src _ _ (endFree_with_command hwf Config.cmdGetSquelch_ne_endMark)
  | otherCommand dst src k p =>
    cases hc
    obtain ⟨hfree, hfreq, hsql⟩ : endFree (dst :: src :: k :: p) = true ∧
        k ≠ Config.cmdGetFrequency ∧ k ≠ Config.cmdGetSquelch := by
      simpa only [Instr.wf, Bool.and_eq_true, decide_eq_true_eq] using hwf
    rw [decode, decodeRx_rxBytes dst src k p hfree, rowOfMessage_other hfreq hsql]
  | requestFrequency | requestSquelch | setMode | setSquelch | setMonitor =>
    cases hc
    rw [decode, decodeTx_encodeFrame]
    rfl
  | setFrequency hz =>
    obtain ⟨p, hp, rfl⟩ := Option.map_eq_some_iff.1 hc
    exact (decodeTx_encodeFrame o _ p).trans (decodeTxFields_setFrequency hp)
  | _ => exact nomatch hc

/-- The operations without a code (R75, R161). -/
theorem encode_eq_none_iff (o : NibbleOrder) (i : Instr) :
    encode o i = none ↔
      i.format = .internal ∨ ∃ hz : Hz, i = .setFrequency hz ∧ 100000000 ≤ hz.toNat := by
  cases i with
  | setFrequency hz => simp [encode, Instr.format, encodeFreq_none]
  | _ => simp [encode, Instr.format]

/-- A code that decodes is the code of a well-formed operation, in each of the four formats. -/
theorem encode_of_decode {o : NibbleOrder} {c : Code} {i : Instr} (h : decode o c = .ok i) :
    i.wf = true ∧ encode o i = some c := by
  cases c with
  | event w => exact encode_of_decodeEvent h
  | byte b =>
    cases h
    exact encode_decodeByte o b
  | rxframe f =>
    obtain ⟨dst, src, k, p, hfree, rfl, rfl⟩ := exists_rxBytes_of_decodeRx h
    exact encode_rowOfMessage o hfree
  | txframe f => exact encode_of_decodeTx h

/-- Settles O2: the two halves are `decode_of_encode` and `encode_eq_none_iff`. -/
theorem decodeUndoesEncode : Obligations.DecodeUndoesEncode :=
  ⟨fun _ _ _ hwf hc => decode_of_encode hwf hc, encode_eq_none_iff⟩

/-- Settles O3: one inverse lemma per format. -/
theorem encodeUndoesDecode : Obligations.EncodeUndoesDecode :=
  fun _ _ _ h => encode_of_decode h

/-- Settles O1: each word is decoded by evaluation. -/
theorem wordsOfTheSpecDecode : Obligations.WordsOfTheSpecDecode := by
  unfold Obligations.WordsOfTheSpecDecode
  decide

end Sys2Proof
end

section
/-! The opcode table as data (R75): which row is the first that a word selects. A mask goes byte by byte
(`bigEndian_land`), so what it leaves of a word is found on the byte string. -/

namespace Sys2Proof

open Machine

/-! ### What the masks leave -/

/-- The mask of PUSH leaves the kind of its word (R72). -/
theorem push_land_kind (b : Byte) : (0x100 + b.toNat) &&& 0x300 = 0x100 := by
  simpa using land_byte 1 3 b.toNat 0 b.isLt (by omega)

/-- The full mask of the event rows leaves the whole word (R72). -/
theorem event_land_full {w : Nat} (h : w < 1024) : w &&& 0x3FF = w := by
  rw [Nat.and_two_pow_sub_one_eq_mod w 10, Nat.mod_eq_of_lt h]

/-- The full mask of the byte rows leaves the whole byte (R61). -/
theorem byte_land_full (b : Byte) : b.toNat &&& 0xFF = b.toNat := by
  rw [Nat.and_two_pow_sub_one_eq_mod _ 8, Nat.mod_eq_of_lt b.isLt]

theorem land_fullByte (b : Byte) : b &&& 255#8 = b := BitVec.and_allOnes

/-- A word is compared with a pattern under a mask by its bytes (R75). -/
theorem bigEndian_land_eq {f mask pattern : Bytes} (hlen : f.length = mask.length)
    (h : List.zipWith (· &&& ·) f mask = pattern) : bigEndian f &&& bigEndian mask = bigEndian pattern := by
  rw [bigEndian_land f mask hlen, h]

/-- The mask of the rows with a command leaves start markers and command of the header (R77). -/
theorem headerWord_land_command (dst src k : Byte) (p : Bytes) :
    headerWord (rxBytes dst src k p) &&& 0xFFFF0000FF = 0xFEFE000000 + k.toNat :=
  bigEndian_land_eq (f := [0xFE, 0xFE, dst, src, k]) (mask := [0xFF, 0xFF, 0, 0, 0xFF])
    (pattern := [0xFE, 0xFE, 0, 0, k]) rfl (by simp [land_fullByte])

/-- The mask of the last row leaves the start markers of the header (R77). -/
theorem headerWord_land_start (dst src k : Byte) (p : Bytes) :
    headerWord (rxBytes dst src k p) &&& 0xFFFF000000 = 0xFEFE000000 :=
  bigEndian_land_eq (f := [0xFE, 0xFE, dst, src, k]) (mask := [0xFF, 0xFF, 0, 0, 0])
    (pattern := [0xFE, 0xFE, 0, 0, 0]) rfl (by simp)

theorem plen_rxBytes (dst src k : Byte) (p : Bytes) : plen (rxBytes dst src k p) = p.length := by
  simp [plen, rxBytes]

/-! ### The row of each code -/

/-- A PUSH word is no NOP and has PUSH's kind (R72). -/
theorem selectedRow_push (b : Byte) : (Code.event (0x100 + b.toNat)).selectedRow = some "PUSH" := by
  have hword : (0x100 + b.toNat) &&& 0x3FF = 0x100 + b.toNat :=
    event_land_full (by have := b.isLt; omega)
  simp [Code.selectedRow, selectRow, opcodeTable, hword, push_land_kind]

/-- A byte other than END and START selects the row without a mask (R61). -/
theorem selectedRow_dataByte {b : Byte} (hend : b ≠ Config.endMark) (hstart : b ≠ Config.startMark) :
    (Code.byte b).selectedRow = some "DATA" := by
  have hfd : b.toNat ≠ 0xFD := fun h => hend (BitVec.eq_of_toNat_eq h)
  have hfe : b.toNat ≠ 0xFE := fun h => hstart (BitVec.eq_of_toNat_eq h)
  simp [Code.selectedRow, selectRow, opcodeTable, byte_land_full, hfd, hfe]

/-- Command 03 selects by the length of the payload (R77, R157). -/
theorem selectedRow_frequency (dst src : Byte) (p : Bytes) :
    (Code.rxframe (rxBytes dst src Config.cmdGetFrequency p)).selectedRow =
      some (if p.length = 5 then "GET_FREQUENCY.response" else "GET_FREQUENCY.badlen") := by
  by_cases h : p.length = 5 <;>
    simp [Code.selectedRow, selectRow, opcodeTable, headerWord_land_command, plen_rxBytes, h,
      Config.cmdGetFrequency]

/-- Command 15 selects by whether there is a payload (R77, R157). -/
theorem selectedRow_squelch (dst src : Byte) (p : Bytes) :
    (Code.rxframe (rxBytes dst src Config.cmdGetSquelch p)).selectedRow =
      some (if p = [] then "GET_SQUELCH.empty" else "GET_SQUELCH.response") := by
  cases p <;>
    simp [Code.selectedRow, selectRow, opcodeTable, headerWord_land_command, plen_rxBytes,
      Config.cmdGetSquelch]

/-- Every other command selects the last row (R77, R157). -/
theorem selectedRow_other {dst src k : Byte} {p : Bytes} (hfreq : k ≠ Config.cmdGetFrequency)
    (hsql : k ≠ Config.cmdGetSquelch) :
    (Code.rxframe (rxBytes dst src k p)).selectedRow = some "OTHER_COMMAND" := by
  have h03 : k.toNat ≠ 0x03 := fun h => hfreq (BitVec.eq_of_toNat_eq h)
  have h15 : k.toNat ≠ 0x15 := fun h => hsql (BitVec.eq_of_toNat_eq h)
  have hno03 : 0xFEFE000000 + k.toNat ≠ 0xFEFE000003 := by omega
  have hno15 : 0xFEFE000000 + k.toNat ≠ 0xFEFE000015 := by omega
  simp [Code.selectedRow, selectRow, opcodeTable, headerWord_land_command, headerWord_land_start, hno03,
    hno15]

/-- The first row of 88 bits leaves the field of SET_FREQUENCY out (R74). -/
theorem selectedRow_setFrequency (b0 b1 b2 b3 b4 : Byte) :
    (Code.txframe (encodeFrame Config.cmdSetFrequency [b0, b1, b2, b3, b4])).selectedRow =
      some "SET_FREQUENCY" := by
  have hmasked : bigEndian (encodeFrame Config.cmdSetFrequency [b0, b1, b2, b3, b4]) &&&
      0xFFFFFFFFFF0000000000FF = 0xFEFEE000050000000000FD :=
    bigEndian_land_eq (mask := [0xFF, 0xFF, 0xFF, 0xFF, 0xFF, 0, 0, 0, 0, 0, 0xFF])
      (pattern := encodeFrame Config.cmdSetFrequency [0, 0, 0, 0, 0]) rfl (by simp [encodeFrame, land_fullByte])
  simp [Code.selectedRow, selectRow, opcodeTable, encodeFrame_length, hmasked]

/-- The mask of the rows of 56 bits leaves the operand out (R74). -/
theorem encodeFrame_land_operand (k b : Byte) :
    bigEndian (encodeFrame k [b]) &&& 0xFFFFFFFFFF00FF = bigEndian (encodeFrame k [0]) :=
  bigEndian_land_eq (mask := [0xFF, 0xFF, 0xFF, 0xFF, 0xFF, 0, 0xFF]) rfl
    (by simp [encodeFrame, land_fullByte])

theorem selectedRow_setMode (m : Byte) :
    (Code.txframe (encodeFrame Config.cmdSetMode [m])).selectedRow = some "SET_MODE" := by
  have hmasked : _ = 0xFEFEE0000600FD := encodeFrame_land_operand Config.cmdSetMode m
  simp [Code.selectedRow, selectRow, opcodeTable, encodeFrame_length, hmasked]

theorem selectedRow_setSquelch (v : Byte) :
    (Code.txframe (encodeFrame Config.cmdSetSquelch [v])).selectedRow = some "SET_SQUELCH" := by
  have hmasked : _ = 0xFEFEE0001400FD := encodeFrame_land_operand Config.cmdSetSquelch v
  simp [Code.selectedRow, selectRow, opcodeTable, encodeFrame_length, hmasked]

theorem selectedRow_setMonitor (m0 m1 : Byte) :
    (Code.txframe (encodeFrame Config.cmdSetMonitor [m0, m1])).selectedRow = some "SET_MONITOR" := by
  have hmasked : bigEndian (encodeFrame Config.cmdSetMonitor [m0, m1]) &&& 0xFFFFFFFFFF0000FF =
      0xFEFEE0001A0000FD :=
    bigEndian_land_eq (mask := [0xFF, 0xFF, 0xFF, 0xFF, 0xFF, 0, 0, 0xFF])
      (pattern := encodeFrame Config.cmdSetMonitor [0, 0]) rfl (by simp [encodeFrame, land_fullByte])
  simp [Code.selectedRow, selectRow, opcodeTable, encodeFrame_length, hmasked]

/-- The code of a well-formed operation selects the row of its mnemonic. -/
theorem selectedRow_of_encode {o : NibbleOrder} {i : Instr} {c : Code} (hwf : i.wf = true)
    (hc : encode o i = some c) : c.selectedRow = some i.mnemonic := by
  cases i with
  | nop | tick | reset | endByte | startByte => cases hc; rfl
  | requestFrequency | requestSquelch => cases hc; decide
  | push b => cases hc; exact selectedRow_push b
  | dataByte b =>
    cases hc
    obtain ⟨hend, hstart⟩ : b ≠ Config.endMark ∧ b ≠ Config.startMark := by simpa [Instr.wf] using hwf
    exact selectedRow_dataByte hend hstart
  | getFrequencyResponse => cases hc; exact selectedRow_frequency _ _ _
  | getFrequencyBadlen dst src p =>
    cases hc
    have hlen : p.length ≠ 5 := of_decide_eq_true (Bool.and_eq_true_iff.1 hwf).2
    rw [selectedRow_frequency, if_neg hlen]
    rfl
  | getSquelchResponse | getSquelchEmpty => cases hc; exact selectedRow_squelch _ _ _
  | otherCommand dst src k p =>
    cases hc
    obtain ⟨-, hfreq, hsql⟩ : endFree (dst :: src :: k :: p) = true ∧
        k ≠ Config.cmdGetFrequency ∧ k ≠ Config.cmdGetSquelch := by
      simpa only [Instr.wf, Bool.and_eq_true, decide_eq_true_eq] using hwf
    exact selectedRow_other hfreq hsql
  | setFrequency hz =>
    obtain ⟨p, hp, rfl⟩ := Option.map_eq_some_iff.1 hc
    obtain ⟨-, rfl⟩ := (encodeFreq_some o hz p).1 hp
    exact selectedRow_setFrequency _ _ _ _ _
  | setMode m => cases hc; exact selectedRow_setMode m
  | setSquelch v => cases hc; exact selectedRow_setSquelch v
  | setMonitor m0 m1 => cases hc; exact selectedRow_setMonitor m0 m1
  | _ => exact nomatch hc

/-- Settles O4: a code that decodes is the code of a well-formed operation, and such a code selects the row of
the operation. -/
theorem decoderPicksTheTablesFirstRow : Obligations.DecoderPicksTheTablesFirstRow := by
  intro o c i h
  obtain ⟨hwf, hc⟩ := encode_of_decode h
  exact selectedRow_of_encode hwf hc

end Sys2Proof
end

section
/-! The BCD codec (R130 to R138): the digits of the encoded field, the bounds of the decoded value, and the
two layouts read against each other. -/

namespace Sys2Proof.Machine

/-! ### Packed pairs of digits (R136) -/

theorem isBcd_iff (b : Byte) : isBcd b = true ↔ b.toNat / 16 ≤ 9 ∧ b.toNat % 16 ≤ 9 := by
  simp [isBcd, hi_eq, lo_eq]

theorem isBcd_pack {h l : Nat} (hh : h < 10) (hl : l < 10) : isBcd (pack h l) = true := by
  rw [isBcd_iff, pack_toNat h l hh hl]
  omega

theorem isBcd_packPair (o : NibbleOrder) {e d : Nat} (he : e < 10) (hd : d < 10) :
    isBcd (packPair o e d) = true := by
  cases o with
  | formula => exact isBcd_pack he hd
  | printedExample => exact isBcd_pack hd he

/-- A payload of decimal bytes holds neither END nor START, whose high nibble is 15 (R135, U2). -/
theorem marks_not_mem_of_bcdPayload {p : Bytes} (h : bcdPayload p = true) :
    Config.endMark ∉ p ∧ Config.startMark ∉ p := by
  have hall : ∀ b ∈ p, isBcd b = true := List.all_eq_true.1 h
  constructor
  · exact fun hmem => absurd (hall _ hmem) (by decide)
  · exact fun hmem => absurd (hall _ hmem) (by decide)

/-! ### ENC_FREQ (R130, R137) -/

/-- Settles O39: under the printed order byte `j` packs digit `6 - 2j` high and digit `7 - 2j` low. -/
theorem encFreqUnderThePrintedOrder : Obligations.EncFreqUnderThePrintedOrder := by
  intro hz s horder
  refine ⟨fun hlt => ?_, fun hlimit => execEncFreq_of_limit_le hlimit s⟩
  have hfield := (encodeFreq_some s.cfg.txOrder hz _).2 ⟨hlt, rfl⟩
  refine ⟨_, _, _, _, execEncFreq_of_some hfield, ?_⟩
  simp [horder, packPair, pack_digit_toNat]

/-- An encoded field has decimal nibbles, under either order (U2). -/
theorem bcdPayload_of_encodeFreq {o : NibbleOrder} {hz : Hz} {p : Bytes} (h : encodeFreq o hz = some p) :
    bcdPayload p = true := by
  obtain ⟨-, rfl⟩ := (encodeFreq_some o hz p).1 h
  have hpair : ∀ j k, isBcd (packPair o (digit hz.toNat j) (digit hz.toNat k)) = true :=
    fun j k => isBcd_packPair o (digit_lt _ j) (digit_lt _ k)
  have hzero : isBcd 0x00 = true := by decide
  simp only [bcdPayload, List.all_cons, List.all_nil, hpair, hzero, Bool.and_self]

/-- Settles O40: the marks are no decimal bytes (`marks_not_mem_of_bcdPayload`). -/
theorem encFreqYieldsDecimalBytes : Obligations.EncFreqYieldsDecimalBytes := by
  intro o hz p h
  have hbcd := bcdPayload_of_encodeFreq h
  obtain ⟨hend, hstart⟩ := marks_not_mem_of_bcdPayload hbcd
  obtain ⟨-, rfl⟩ := (encodeFreq_some o hz p).1 h
  exact ⟨rfl, hbcd, hend, hstart, rfl⟩

/-! ### Bounds of DEC_FREQ (R134) -/

theorem bcdPayload_five (b0 b1 b2 b3 b4 : Byte) :
    bcdPayload [b0, b1, b2, b3, b4] = true ↔
      isBcd b0 = true ∧ isBcd b1 = true ∧ isBcd b2 = true ∧ isBcd b3 = true ∧ isBcd b4 = true := by
  simp [bcdPayload]

/-- Settles O42: each byte weighs at most 165, a decimal one at most 99. -/
theorem decFreqStaysBelowItsPort : Obligations.DecFreqStaysBelowItsPort := by
  intro b0 b1 b2 b3 b4
  rw [decodeFreq_toNat, freqValue_eq_wireValue]
  refine ⟨rfl, wireValue_le b0 b1 b2 b3 b4, fun hbcd => ?_⟩
  obtain ⟨h0, h1, h2, h3, h4⟩ := (bcdPayload_five b0 b1 b2 b3 b4).1 hbcd
  have w0 := pairValue_le_of_isBcd b0 h0
  have w1 := pairValue_le_of_isBcd b1 h1
  have w2 := pairValue_le_of_isBcd b2 h2
  have w3 := pairValue_le_of_isBcd b3 h3
  have w4 := pairValue_le_of_isBcd b4 h4
  unfold wireValue
  omega

/-! ### DEC_FREQ after ENC_FREQ (R133) -/

/-- What a packed pair of digits weighs in the sum of DEC_FREQ (R131, R136). -/
theorem pairValue_pack {h l : Nat} (hh : h < 10) (hl : l < 10) :
    10 * ((pack h l).toNat / 16) + (pack h l).toNat % 16 = 10 * h + l := by
  rw [pack_toNat h l hh hl]
  omega

/-- Decoding the encoded field reads the digits from the last to the first, a hundredfold (R133). -/
theorem decodeFreq_encodeFreq_toNat {hz : Hz} {p : Bytes} (h : encodeFreq .formula hz = some p) :
    (decodeFreq p).toNat = 100 * rev8 hz.toNat := by
  obtain ⟨-, rfl⟩ := (encodeFreq_some .formula hz p).1 h
  have hlast : (0x00 : Byte).toNat = 0 := rfl
  simp only [decodeFreq_toNat, wireValue, packPair, pairValue_pack, digit_lt, rev8, hlast]
  ring

/-- Numbers are equal exactly if their last digits and the numbers before them are. -/
theorem lastDigit_inj {a b x y : Nat} (ha : a < 10) (hb : b < 10) :
    a + 10 * x = b + 10 * y ↔ a = b ∧ x = y := by
  omega

/-- The hundredfold reversed number of eight digits is the number itself exactly for a palindrome of six
digits before two zeros (C11): both in nested form, their digits are compared from the last on. -/
theorem hundred_mul_rev8_eq_iff {n : Nat} (h : n < 100000000) :
    100 * rev8 n = n ↔
      digit n 6 = 0 ∧ digit n 7 = 0 ∧ digit n 0 = digit n 5 ∧ digit n 1 = digit n 4 ∧
        digit n 2 = digit n 3 := by
  have hn : n = digit n 7 + 10 * (digit n 6 + 10 * (digit n 5 + 10 * (digit n 4 + 10 * (digit n 3 + 10 *
      (digit n 2 + 10 * (digit n 1 + 10 * (digit n 0 + 10 * (0 + 10 * 0)))))))) := by
    linarith [digit_sum n h]
  have hrev : 100 * rev8 n = 0 + 10 * (0 + 10 * (digit n 0 + 10 * (digit n 1 + 10 * (digit n 2 + 10 *
      (digit n 3 + 10 * (digit n 4 + 10 * (digit n 5 + 10 * (digit n 6 + 10 * digit n 7)))))))) := by
    rw [rev8]
    ring
  constructor
  · intro heq
    have hnested := hrev.symm.trans (heq.trans hn)
    simp only [lastDigit_inj, digit_lt, Nat.ofNat_pos] at hnested
    obtain ⟨h7, h6, h05, h14, h23, -⟩ := hnested
    exact ⟨h6.symm, h7.symm, h05, h14, h23⟩
  · rintro ⟨h6, h7, h05, h14, h23⟩
    linarith

/-- Settles O43: the value is the reversed number, and equal values of 34 bits are equal numbers. -/
theorem decFreqOfEncFreqReversesTheDigits : Obligations.DecFreqOfEncFreqReversesTheDigits := by
  intro hz p h
  have hvalue := decodeFreq_encodeFreq_toNat h
  refine ⟨hvalue, ?_⟩
  rw [← hundred_mul_rev8_eq_iff ((encodeFreq_some .formula hz p).1 h).1, ← hvalue]
  exact BitVec.toNat_inj.symm

/-! ### The receive layout as an encoder (R138) -/

/-- The two digits at one place of a number, packed, weigh what stands there (R138). -/
theorem pairValue_pack_mod (x y : Nat) :
    10 * ((pack (x % 10) (y % 10)).toNat / 16) + (pack (x % 10) (y % 10)).toNat % 16 =
      10 * (x % 10) + y % 10 :=
  pairValue_pack (Nat.mod_lt x (by omega)) (Nat.mod_lt y (by omega))

/-- A number is ten times what stands before its last digit, and that digit. -/
theorem div_pow_eq (v k : Nat) : v / 10 ^ k = 10 * (v / 10 ^ (k + 1)) + v / 10 ^ k % 10 := by
  rw [pow_succ, ← Nat.div_div_eq_div_mul, Nat.div_add_mod]

/-- The peer's field decodes to its value (R138). -/
theorem freqValue_peerFreq {v : Nat} (hv : v < 10000000000) : freqValue (peerFreq v) = v := by
  have hfirst : v / 10 ^ 10 = 0 := Nat.div_eq_of_lt (by simpa using hv)
  have hlast : v / 10 ^ 0 = v := Nat.div_one v
  rw [peerFreq, freqValue_eq_wireValue, wireValue]
  simp only [pairValue_pack_mod]
  linarith [div_pow_eq v 0, div_pow_eq v 1, div_pow_eq v 2, div_pow_eq v 3, div_pow_eq v 4, div_pow_eq v 5,
    div_pow_eq v 6, div_pow_eq v 7, div_pow_eq v 8, div_pow_eq v 9]

theorem bcdPayload_peerFreq (v : Nat) : bcdPayload (peerFreq v) = true := by
  have hpack : ∀ x y, isBcd (pack (x % 10) (y % 10)) = true :=
    fun x y => isBcd_pack (Nat.mod_lt x (by omega)) (Nat.mod_lt y (by omega))
  rw [peerFreq, bcdPayload_five]
  exact ⟨hpack _ _, hpack _ _, hpack _ _, hpack _ _, hpack _ _⟩

/-- One more byte at the end of a field (R131). -/
theorem freqValue_concat (p : Bytes) (b : Byte) :
    freqValue (p ++ [b]) = 100 * freqValue p + (10 * (b.toNat / 16) + b.toNat % 16) := by
  simp only [freqValue, List.foldl_append, List.foldl_cons, List.foldl_nil, accumulate, hi_eq, lo_eq]
  ring

/-- A decimal byte is told by what it weighs. -/
theorem eq_of_pairValue_eq {b c : Byte} (hb : isBcd b = true) (hc : isBcd c = true)
    (h : 10 * (b.toNat / 16) + b.toNat % 16 = 10 * (c.toNat / 16) + c.toNat % 16) : b = c := by
  rw [isBcd_iff] at hb hc
  exact BitVec.eq_of_toNat_eq (by omega)

/-- Fields of decimal bytes of one length are told apart by their values, each byte weighing less than a
hundred. -/
theorem eq_of_freqValue_eq {p q : Bytes} (hlen : p.length = q.length) (hp : bcdPayload p = true)
    (hq : bcdPayload q = true) (h : freqValue p = freqValue q) : p = q := by
  induction p using List.reverseRecOn generalizing q with
  | nil => exact (List.length_eq_zero_iff.1 hlen.symm).symm
  | append_singleton p b ih =>
    obtain rfl | ⟨q, c, rfl⟩ := q.eq_nil_or_concat'
    · simp at hlen
    obtain ⟨hp, hb⟩ : bcdPayload p = true ∧ isBcd b = true := by simpa [bcdPayload] using hp
    obtain ⟨hq, hc⟩ : bcdPayload q = true ∧ isBcd c = true := by simpa [bcdPayload] using hq
    have hwb := pairValue_le_of_isBcd b hb
    have hwc := pairValue_le_of_isBcd c hc
    rw [freqValue_concat, freqValue_concat] at h
    rw [ih (by simpa using hlen) hp hq (by omega), eq_of_pairValue_eq hb hc (by omega)]

/-- Settles O44: the digits of the field are those of its value, the last pair first. -/
theorem peerFieldIsUnique : Obligations.PeerFieldIsUnique := by
  intro v p hv
  constructor
  · rintro ⟨hlen, hbcd, rfl⟩
    exact eq_of_freqValue_eq hlen hbcd (bcdPayload_peerFreq _) (freqValue_peerFreq hv).symm
  · rintro rfl
    exact ⟨rfl, bcdPayload_peerFreq v, freqValue_peerFreq hv⟩

end Sys2Proof.Machine
end

section
/-! Frames through the codec and the router (R102, R110, R121, R150 to R157): what an encoded frame decodes to,
which FRAME a candidate emits, and the RXFRAME rows as DISPATCH of their message. -/

namespace Sys2Proof.Machine

/-! ### The message codec (R120, R121) -/

theorem encodeFrame_eq_rxBytes (k : Byte) (p : Bytes) :
    encodeFrame k p = rxBytes Config.radioAddr Config.computerAddr k p := rfl

theorem decodeFrame_rxBytes (dst src k : Byte) (p : Bytes) :
    decodeFrame (rxBytes dst src k p) =
      some { toAddr := dst, fromAddr := src, command := k, payload := p } :=
  decodeFrame_fields _ _ dst src k _ p

theorem validFrame_rxBytes (dst src k : Byte) (p : Bytes) : validFrame (rxBytes dst src k p) = true := by
  simp [validFrame, rxBytes, startsOk]

/-- A frame's bytes determine its fields: each of them is read back. -/
theorem rxBytes_inj {dst src k dst' src' k' : Byte} {p p' : Bytes} :
    rxBytes dst src k p = rxBytes dst' src' k' p' ↔ dst = dst' ∧ src = src' ∧ k = k' ∧ p = p' := by
  constructor
  · intro h
    have hm := congrArg decodeFrame h
    rw [decodeFrame_rxBytes, decodeFrame_rxBytes] at hm
    simpa using hm
  · rintro ⟨rfl, rfl, rfl, rfl⟩
    rfl

/-- Settles O36: encoding writes the two fixed addresses, and a frame's bytes determine its addresses. -/
theorem decFrameUndoesEncFrame : Obligations.DecFrameUndoesEncFrame := by
  refine ⟨fun k p => ⟨decodeFrame_rxBytes _ _ k p, validFrame_rxBytes _ _ k p⟩, fun f m hv hc hm => ?_⟩
  obtain ⟨dst, src, k, p, -, rfl⟩ := exists_rxBytes_of_validFrame hv hc
  rw [decodeFrame_rxBytes] at hm
  cases hm
  rw [encodeFrame_eq_rxBytes, rxBytes_inj]
  constructor
  · rintro ⟨hdst, hsrc, -, -⟩
    exact ⟨hdst.symm, hsrc.symm⟩
  · rintro ⟨hdst, hsrc⟩
    exact ⟨hdst.symm, hsrc.symm, rfl, rfl⟩

/-! ### The events of a candidate (R102, R110) -/

/-- The router emits no FRAME (R150). -/
theorem frame_not_mem_routeEvents (m : Message) (f : Bytes) : OutEvent.frame f ∉ routeEvents m := by
  unfold routeEvents
  split
  · split <;> simp
  · split
    · split <;> simp
    · simp

/-- A valid frame emits FRAME and what the router makes of some message (R102, R110). -/
theorem exists_candidateEvents_valid {c : Bytes} (h : validFrame c = true) :
    ∃ m, candidateEvents c = .frame c :: routeEvents m := by
  obtain ⟨hs, hlen⟩ : startsOk c = true ∧ Config.minFrameLen ≤ c.length := by
    simpa only [validFrame, Bool.and_eq_true, decide_eq_true_eq] using h
  simp only [candidateEvents, hs, hlen, if_true, decodeFrame, if_neg (Nat.not_lt.2 hlen)]
  exact ⟨_, rfl⟩

/-- A candidate that is no valid frame emits one DIAG (R102). -/
theorem exists_candidateEvents_invalid {c : Bytes} (h : validFrame c = false) :
    ∃ code n, candidateEvents c = [.diag code n] := by
  by_cases hs : startsOk c = true
  · rw [validFrame, hs, Bool.true_and, decide_eq_false_iff_not] at h
    exact ⟨_, _, candidateEvents_malformed c hs (Nat.not_le.1 h)⟩
  · exact ⟨_, _, candidateEvents_text c (Bool.eq_false_iff.2 hs)⟩

/-- A candidate emits FRAME only of itself, and only if it is a valid frame (R102, R62). -/
theorem frame_mem_candidateEvents_iff (f c : Bytes) :
    OutEvent.frame f ∈ candidateEvents c ↔ f = c ∧ validFrame c = true := by
  cases hv : validFrame c with
  | true =>
    obtain ⟨m, hm⟩ := exists_candidateEvents_valid hv
    simp [hm, frame_not_mem_routeEvents]
  | false =>
    obtain ⟨code, n, hdiag⟩ := exists_candidateEvents_invalid hv
    simp [hdiag]

/-- A received frame emits FRAME and what the router makes of its message (R102, R110). -/
theorem candidateEvents_rxBytes (dst src k : Byte) (p : Bytes) :
    candidateEvents (rxBytes dst src k p) = .frame (rxBytes dst src k p) ::
      routeEvents { toAddr := dst, fromAddr := src, command := k, payload := p } :=
  candidateEvents_valid dst src k _ p

/-! ### The RXFRAME rows (R75, R157) -/

/-- The row of a message is DISPATCH of that message (R75, R150). -/
theorem exec_rowOfMessage (m : Message) (s : State) :
    exec (rowOfMessage m) s = .next (s.emitAll (routeEvents m)) := by
  obtain ⟨dst, src, k, p⟩ := m
  by_cases hfreq : k = Config.cmdGetFrequency
  · subst hfreq
    by_cases hlen : p.length = Config.freqPayloadLen
    · match p, hlen with
      | [_, _, _, _, _], _ => rfl
    · rw [rowOfMessage_badlen hlen]
      rfl
  by_cases hsql : k = Config.cmdGetSquelch
  · subst hsql
    cases p <;> rfl
  · rw [rowOfMessage_other hfreq hsql]
    rfl

/-- Settles O47: every row is DISPATCH of its message, by the router's rules. -/
theorem receivedRowsGiveTheirOutput : Obligations.ReceivedRowsGiveTheirOutput := by
  refine ⟨fun dst src b0 b1 b2 b3 b4 s => ?_, fun dst src p s hlen => ?_, fun dst src level rest s => rfl,
    fun dst src s => rfl, fun dst src k p s hfreq hsql => ?_⟩
  · exact ⟨decodeFreq [b0, b1, b2, b3, b4], decodeFreq_toNat b0 b1 b2 b3 b4, rfl⟩
  · have hroute := routeEvents_frequency_badlen (m := ⟨dst, src, Config.cmdGetFrequency, p⟩) rfl hlen
    exact congrArg (fun es => Host.Outcome.next (s.emitAll es)) hroute
  · have hroute := routeEvents_other (m := ⟨dst, src, k, p⟩) hfreq hsql
    exact congrArg Host.Outcome.next ((congrArg s.emitAll hroute).trans s.emitAll_nil)

/-- Settles O48: both sides emit FRAME and then the router's events on the frame's message. -/
theorem classifyHandsOffToTheRow : Obligations.ClassifyHandsOffToTheRow := by
  intro o f i s h
  obtain ⟨dst, src, k, p, -, rfl, rfl⟩ := exists_rxBytes_of_decodeRx h
  rw [exec_classify, candidateEvents_rxBytes, exec_rowOfMessage]
  exact congrArg Host.Outcome.next (s.emitAll_emitAll [_] _).symm

/-- Settles O49: the handler calls are the router's, which looks at command and payload only. -/
theorem routerIgnoresAddresses : Obligations.RouterIgnoresAddresses := by
  intro d a d' a' k z p s t t' h h'
  obtain rfl := Host.Outcome.next.inj h
  obtain rfl := Host.Outcome.next.inj h'
  have hview : ∀ dst src, callerView (candidateEvents ([0xFE, 0xFE, dst, src, k] ++ p ++ [z])) =
      callerView (routeEvents { toAddr := dst, fromAddr := src, command := k, payload := p }) :=
    fun dst src => (congrArg callerView (candidateEvents_valid dst src k z p) :).trans rfl
  refine ⟨?_, rfl⟩
  simp only [State.classify_eq, State.emitAll_out, callerView, List.filter_append]
  exact congrArg _ ((hview d a).trans (hview d' a').symm)

end Sys2Proof.Machine
end

section
/-! The command agent (R160 to R168): every one of its operations but SET_FREQUENCY is SEND of some command and
payload, and SET_FREQUENCY has one rule for each of its three outcomes. -/

namespace Sys2Proof.Machine

/-- The operations of the command agent: a frame is sent, whatever the state, or the frequency is set. -/
theorem command_cases {i : Instr} (h : isCommand i = true) :
    (∃ k p, ∀ s, exec i s = .next (s.sendFrame k p)) ∨ ∃ hz, i = .setFrequency hz := by
  cases i with
  | requestFrequency | requestSquelch | setMode | setSquelch | setMonitor | send =>
    exact .inl ⟨_, _, fun _ => rfl⟩
  | setFrequency hz => exact .inr ⟨hz, rfl⟩
  | _ => exact nomatch h

/-- `ValueError` abandons SET_FREQUENCY before anything else (D23). -/
theorem execSetFrequency_of_limit_le {hz : Hz} (h : 100000000 ≤ hz.toNat) (s : State) :
    exec (.setFrequency hz) s = .next (s.answer (.error .valueError)) := by
  change execSetFrequency hz s = _
  rw [execSetFrequency, (encodeFreq_none _ hz).2 h]
  rfl

/-- On an open line SET_FREQUENCY sends its frame and notifies (R161). -/
theorem execSetFrequency_open {hz : Hz} {s : State} {p : Bytes} (hp : encodeFreq s.cfg.txOrder hz = some p)
    (hopen : s.lineFailed = false) :
    exec (.setFrequency hz) s = .next ((s.sendFrame Config.cmdSetFrequency p).notify hz) := by
  change execSetFrequency hz s = _
  simp [execSetFrequency, hp, hopen]

/-- On a failed line SET_FREQUENCY sends its frame and may notify (D23). -/
theorem execSetFrequency_failed {hz : Hz} {s : State} {p : Bytes} (hp : encodeFreq s.cfg.txOrder hz = some p)
    (hfail : s.lineFailed = true) :
    exec (.setFrequency hz) s = .next ((s.sendFrame Config.cmdSetFrequency p).notifyOrNot hz) := by
  change execSetFrequency hz s = _
  simp [execSetFrequency, hp, hfail]

/-- Below the limit ENC_FREQ has an answer (R130). -/
theorem exists_encodeFreq (o : NibbleOrder) {hz : Hz} (h : hz.toNat < 100000000) :
    ∃ p, encodeFreq o hz = some p :=
  ⟨_, (encodeFreq_some o hz _).2 ⟨h, rfl⟩⟩

/-- Taking the free value uses it up and notifies or not (D23). -/
theorem State.notifyOrNot_eq (s : State) (hz : Hz) :
    ∃ u, s.notifyOrNot hz = { s with cmdUpdates := u, choice := s.choice + 1 } ∧
      (u = s.cmdUpdates ∨ u = s.cmdUpdates ++ [hz]) := by
  unfold State.notifyOrNot
  dsimp only
  split
  · exact ⟨_, rfl, .inr rfl⟩
  · exact ⟨_, rfl, .inl rfl⟩

/-- Settles O50. -/
theorem sendWritesTheEncodedFrame : Obligations.SendWritesTheEncodedFrame :=
  fun k p s hopen => congrArg Host.Outcome.next (s.sendFrame_open k p hopen)

/-- Settles O51: each operation is SEND of its command and payload. -/
theorem composedOperationsWriteTheirFrames : Obligations.ComposedOperationsWriteTheirFrames := by
  intro s hopen
  refine ⟨?_, ?_, fun m0 m1 => ?_⟩
  · exact congrArg Host.Outcome.next (s.sendFrame_open Config.cmdGetFrequency [] hopen)
  · exact congrArg Host.Outcome.next (s.sendFrame_open Config.cmdGetSquelch [] hopen)
  · exact congrArg Host.Outcome.next (s.sendFrame_open Config.cmdSetMonitor [m0, m1] hopen)

/-- Settles O53: the field is ENC_FREQ's own answer, and write and notification touch different lists. -/
theorem setFrequencyWritesAndNotifies : Obligations.SetFrequencyWritesAndNotifies := by
  intro hz s hlt hopen
  obtain ⟨p, hp⟩ := exists_encodeFreq s.cfg.txOrder hlt
  refine ⟨p, execEncFreq_of_some hp, ?_⟩
  rw [execSetFrequency_open hp hopen, s.sendFrame_open _ _ hopen]
  rfl

/-- Settles O54. -/
theorem setFrequencyRejectsTooLarge : Obligations.SetFrequencyRejectsTooLarge :=
  fun _ s hlimit => execSetFrequency_of_limit_le hlimit s

/-- Settles O55: SEND on a failed line only answers the error, and the free value decides on the update. -/
theorem failedLineWritesNothing : Obligations.FailedLineWritesNothing := by
  intro i s hi hfail hlt
  obtain ⟨k, p, hsend⟩ | ⟨hz, rfl⟩ := command_cases hi
  · refine ⟨s.cmdUpdates, s.choice, ?_, fun _ => ⟨rfl, rfl⟩, fun _ _ => .inl rfl⟩
    rw [hsend, s.sendFrame_failed k p hfail]
  · obtain ⟨p, hp⟩ := exists_encodeFreq s.cfg.txOrder (hlt hz rfl)
    rw [execSetFrequency_failed hp hfail, s.sendFrame_failed _ _ hfail]
    obtain ⟨u, heq, hu⟩ := State.notifyOrNot_eq
      { s with replies := s.replies ++ [.error .transportError] } hz
    rw [heq]
    refine ⟨u, s.choice + 1, rfl, fun hne => absurd rfl (hne hz), ?_⟩
    rintro _ ⟨⟩
    exact hu

end Sys2Proof.Machine
end

section
/-! The stream decoder, continued (R61, R100 to R109, R123, R188): what END closes, what a stream of bytes is cut
into, FEED as PUSHes, and TICKs in a row. -/

namespace Sys2Proof.Machine

/-! ### Operations in sequence (R10) -/

/-- The first operation of a sequence, when it completes. -/
theorem execAll_cons {i : Instr} {s t : State} (h : exec i s = .next t) (is : List Instr) :
    execAll (i :: is) s = execAll is t := by
  rw [execAll, h]

/-- A sequence that completes, and one after it. -/
theorem execAll_append {is : List Instr} {s t : State} (h : execAll is s = .next t) (js : List Instr) :
    execAll (is ++ js) s = execAll js t := by
  induction is generalizing s with
  | nil => rw [List.nil_append, Host.Outcome.next.inj h]
  | cons i is ih =>
    rw [execAll] at h
    split at h
    · next u hu => rw [List.cons_append, execAll_cons hu, ih h]
    · cases h
    · cases h

/-- A sequence of one operation is that operation. -/
theorem execAll_singleton (i : Instr) (s : State) : execAll [i] s = exec i s := by
  rw [execAll]
  cases exec i s <;> rfl

/-! ### Single operations -/

@[simp] theorem exec_discardOverflow (s : State) : exec .discardOverflow s = .next s.discardOverflow := rfl
@[simp] theorem exec_endByte (s : State) : exec .endByte s = exec (.push Config.endMark) s := rfl
@[simp] theorem exec_startByte (s : State) : exec .startByte s = exec (.push Config.startMark) s := rfl
@[simp] theorem exec_dataByte (b : Byte) (s : State) : exec (.dataByte b) s = exec (.push b) s := rfl

theorem State.idleFlush_of_eq_nil {s : State} (h : s.buf = []) : s.idleFlush = s.emptied :=
  if_neg fun ha => s.armed_iff.1 ha h

/-- Settles O27: the flush's test for an armed timer fails on an empty buffer. -/
theorem idleFlushOfNothingIsSilent : Obligations.IdleFlushOfNothingIsSilent := by
  intro s h
  rw [exec_idleFlush, State.idleFlush_of_eq_nil h, State.emptied, Memory.clear, ← h]

/-- Settles O29. -/
theorem discardOverflowEmptiesTheBuffer : Obligations.DiscardOverflowEmptiesTheBuffer := by
  intro s
  rw [exec_discardOverflow, s.discardOverflow_eq]

/-- Settles O31. -/
theorem resetEmptiesTheTriple : Obligations.ResetEmptiesTheTriple := by
  intro s
  rw [exec_reset, State.emptied, Memory.clear]

/-- Settles O23: EXTRACT's test for an END in the buffer. -/
theorem extractWithoutEndStops : Obligations.ExtractWithoutEndStops :=
  fun s h => if_neg fun hend => h ((Memory.hasEnd_iff s.buf).1 hend)

/-- Settles O14: the byte classes have PUSH's rules, and neither START nor DATA is END. -/
theorem byteClassesArePushes : Obligations.ByteClassesArePushes := by
  intro s
  refine ⟨exec_endByte s, exec_startByte s, fun b => exec_dataByte b s, fun hroom => ?_⟩
  have hr := s.hasRoom_iff.2 hroom
  refine ⟨?_, fun b hb _ => ?_⟩
  · exact congrArg Host.Outcome.next (State.pushByte_stored Config.startMark_ne_endMark hr)
  · exact congrArg Host.Outcome.next (State.pushByte_stored hb hr)

/-! ### END (R103, R189) -/

/-- The END that closes a candidate is none of its two start markers (R62). -/
theorem startsOk_concat_end (bs : Bytes) :
    startsOk (bs ++ [Config.endMark]) = true ↔ ∃ r, bs = Config.startMark :: Config.startMark :: r := by
  match bs with
  | [] => simp [startsOk]
  | [b] => simp [startsOk]
  | x :: y :: r => simp [startsOk]

/-- Settles O15: the order of PUSH's test on `ovf` and the classifier's two tests. -/
theorem endByteClosesTheCandidate : Obligations.EndByteClosesTheCandidate := by
  intro s
  cases hovf : s.ovf with
  | true =>
    refine ⟨[.diag .discardOverflow (s.buf.length + 1)], ?_, fun _ => rfl, nofun, nofun, nofun⟩
    rw [exec_endByte, exec_push, State.pushByte_end_overflowed hovf, s.discardOverflow_eq]
  | false =>
    refine ⟨candidateEvents (s.buf ++ [Config.endMark]), ?_, nofun, fun _ htext => ?_,
      fun _ hstart hshort => ?_, fun _ hstart hlong => ?_⟩
    · exact congrArg Host.Outcome.next (State.pushByte_end_closes hovf)
    · have hno := Bool.eq_false_iff.2 fun h => htext ((startsOk_concat_end s.buf).1 h)
      rw [candidateEvents_text _ hno, List.length_append, List.length_singleton]
    · have hs := (startsOk_concat_end s.buf).2 hstart
      have hlen : (s.buf ++ [Config.endMark]).length = s.buf.length + 1 := List.length_append
      rw [candidateEvents_malformed _ hs (by omega), hlen]
    · have hs := (startsOk_concat_end s.buf).2 hstart
      have hvalid : validFrame (s.buf ++ [Config.endMark]) = true := by
        simp [validFrame, hs, hlong]
      obtain ⟨m, hm⟩ := exists_candidateEvents_valid hvalid
      exact ⟨routeEvents m, hm, routeEvents_length m⟩

/-! ### The cutting of a stream (R104, R111) -/

/-- Settles O19: by induction along the candidates of the string. -/
theorem cutPiecesAreTheCandidates : Obligations.CutPiecesAreTheCandidates := by
  intro bs
  induction bs using stream_induction with
  | tail bs h =>
    rw [cutStream_endFree bs h]
    exact ⟨rfl, nofun, (endFree_iff bs).2 h⟩
  | piece pre post h ih =>
    obtain ⟨hjoin, hpieces, htail⟩ := ih
    rw [cutStream_firstEnd pre post h]
    refine ⟨?_, List.forall_mem_cons.2 ⟨(isCandidate_iff _).2 ⟨pre, h, rfl⟩, hpieces⟩, htail⟩
    simp [hjoin]

/-- Every FRAME that the pieces of a stream emit is a candidate that is a valid frame. -/
theorem frame_mem_flatMap_cutStream {f bs : Bytes}
    (h : OutEvent.frame f ∈ (cutStream bs).1.flatMap candidateEvents) :
    validFrame f = true ∧ isCandidate f = true := by
  obtain ⟨c, hc, hf⟩ := List.mem_flatMap.1 h
  obtain ⟨rfl, hv⟩ := (frame_mem_candidateEvents_iff f c).1 hf
  obtain ⟨-, hpieces, -⟩ := cutPiecesAreTheCandidates bs
  exact ⟨hv, hpieces f hc⟩

/-! ### FEED as PUSHes (R104) -/

/-- FEED of nothing into an unbounded buffer whose timer has just been restarted is no exception to the rule
for bytes. -/
theorem State.feed_unbounded_restarted {s : State} (bs : Bytes) (hd : s.cfg.bufDepth = none)
    (hcnt : s.idleCnt = 0) (hbuf : Config.endMark ∉ s.buf) :
    s.feed bs =
      { s with buf := (cutStream (s.buf ++ bs)).2, idleCnt := 0,
               out := s.out ++ (cutStream (s.buf ++ bs)).1.flatMap candidateEvents } := by
  by_cases hne : bs = []
  · subst hne
    simp [cutStream_endFree _ hbuf, ← hcnt]
  · exact State.feed_unbounded hne hd

/-- An unbounded buffer stays so under PUSH, drops nothing and holds no END. -/
theorem State.pushByte_unbounded {s : State} (b : Byte) (hd : s.cfg.bufDepth = none) (hovf : s.ovf = false)
    (hbuf : Config.endMark ∉ s.buf) :
    (s.pushByte b).cfg.bufDepth = none ∧ (s.pushByte b).ovf = false ∧ Config.endMark ∉ (s.pushByte b).buf := by
  by_cases hb : b = Config.endMark
  · subst hb
    rw [State.pushByte_end_closes hovf]
    exact ⟨hd, rfl, List.not_mem_nil⟩
  · rw [State.pushByte_stored hb (s.hasRoom_iff.2 (.inl hd))]
    exact ⟨hd, hovf, by simpa [hbuf] using Ne.symm hb⟩

/-- An unbounded buffer that has dropped nothing takes the first byte of a FEED as a PUSH. -/
theorem State.feed_cons {s : State} (b : Byte) (bs : Bytes) (hd : s.cfg.bufDepth = none)
    (hovf : s.ovf = false) (hbuf : Config.endMark ∉ s.buf) :
    s.feed (b :: bs) = (s.pushByte b).feed bs := by
  obtain ⟨hd', -, hbuf'⟩ := State.pushByte_unbounded b hd hovf hbuf
  rw [State.feed_unbounded (List.cons_ne_nil b bs) hd,
    State.feed_unbounded_restarted bs hd' (pushByte_frame b s).1 hbuf']
  by_cases hb : b = Config.endMark
  · subst hb
    rw [State.pushByte_end_closes hovf, cutStream_firstEnd _ _ hbuf]
    simp [State.emitAll, State.emptied, Memory.clear, hovf]
  · rw [State.pushByte_stored hb (s.hasRoom_iff.2 (.inl hd)), List.append_assoc, List.singleton_append]

/-- FEED is one PUSH per byte, for an unbounded buffer that has dropped nothing (R104). -/
theorem State.feed_eq_foldl_of_unbounded {s : State} (bs : Bytes) (hd : s.cfg.bufDepth = none)
    (hovf : s.ovf = false) (hbuf : Config.endMark ∉ s.buf) : s.feed bs = bs.foldl State.pushByte s := by
  induction bs generalizing s with
  | nil => rfl
  | cons b bs ih =>
    obtain ⟨hd', hovf', hbuf'⟩ := State.pushByte_unbounded b hd hovf hbuf
    rw [State.feed_cons b bs hd hovf hbuf, ih hd' hovf' hbuf', List.foldl_cons]

/-- Between operations no END stands in the buffer (I1). -/
theorem State.Inv.endMark_not_mem {s : State} (h : s.Inv) : Config.endMark ∉ s.buf :=
  ((Memory.wf_iff _ _).1 h.bufWf).1

/-- FEED is one PUSH per byte, for every buffer that has its form (R104). -/
theorem State.Inv.feed_eq_foldl {s : State} (h : s.Inv) (bs : Bytes) :
    s.feed bs = bs.foldl State.pushByte s := by
  cases hd : s.cfg.bufDepth with
  | none =>
    exact State.feed_eq_foldl_of_unbounded bs hd (h.unboundedNeverOverflows hd) h.endMark_not_mem
  | some d => exact State.feed_bounded hd

/-- Settles O20. -/
theorem feedIsOnePushPerByte : Obligations.FeedIsOnePushPerByte := by
  intro bs s h
  rw [exec_feed, h.feed_eq_foldl, execAll_push]

/-- Settles O33: noise and frame are one piece, which begins with another byte than START. -/
theorem noiseInFrontDestroysTheFrame : Obligations.NoiseInFrontDestroysTheFrame := by
  intro b n f s hd hbuf _ hnoise hb hf
  obtain ⟨pre, hpre, rfl⟩ := (isCandidate_iff f).1 hf
  have hfree : Config.endMark ∉ b :: n ++ pre := List.not_mem_append hnoise hpre
  have htext : startsOk (b :: n ++ pre ++ [Config.endMark]) = false := by
    refine Bool.eq_false_iff.2 fun h => ?_
    obtain ⟨r, hr⟩ := (startsOk_concat_end _).1 h
    exact hb (List.cons.inj hr).1
  have hcut : cutStream (s.buf ++ (b :: n ++ (pre ++ [Config.endMark]))) =
      ([b :: n ++ pre ++ [Config.endMark]], []) := by
    rw [hbuf, List.nil_append, ← List.append_assoc, cutStream_firstEnd _ _ hfree]
    rfl
  rw [exec_feed, State.feed_unbounded (by simp) hd, hcut, List.flatMap_singleton,
    candidateEvents_text _ htext, List.append_assoc, List.length_append, ← hbuf]

/-! ### A frame pushed into an empty block (R123, R160) -/

/-- A candidate is one piece (R111). -/
theorem cutStream_candidate {c : Bytes} (h : isCandidate c = true) : cutStream c = ([c], []) := by
  obtain ⟨pre, hpre, rfl⟩ := (isCandidate_iff c).1 h
  exact cutStream_firstEnd pre [] hpre

/-- Bytes without END, for which there is room, and END after them: the buffer and they are one candidate. -/
theorem State.foldl_pushByte_concat_end {s : State} {bs : Bytes} (hovf : s.ovf = false)
    (hend : Config.endMark ∉ bs)
    (hroom : ∀ d, s.cfg.bufDepth = some d → s.buf.length + bs.length ≤ d) :
    (bs ++ [Config.endMark]).foldl State.pushByte s =
      s.emptied.emitAll (candidateEvents (s.buf ++ (bs ++ [Config.endMark]))) := by
  induction bs generalizing s with
  | nil => exact State.pushByte_end_closes hovf
  | cons b bs ih =>
    obtain ⟨hb, hbs⟩ : Config.endMark ≠ b ∧ Config.endMark ∉ bs := by simpa using hend
    have hfits : s.hasRoom = true := by
      rw [State.hasRoom_iff]
      cases hd : s.cfg.bufDepth with
      | none => exact .inl rfl
      | some d =>
        have := hroom d hd
        rw [List.length_cons] at this
        exact .inr ⟨d, rfl, by omega⟩
    have hrest : ∀ d, s.cfg.bufDepth = some d → (s.buf ++ [b]).length + bs.length ≤ d := by
      intro d hd
      have := hroom d hd
      simp only [List.length_append, List.length_cons, List.length_nil] at this ⊢
      omega
    rw [List.cons_append, List.foldl_cons, State.pushByte_stored hb.symm hfits,
      ih (s := { s with buf := s.buf ++ [b], idleCnt := 0 }) hovf hbs hrest, List.append_assoc s.buf]
    rfl

/-- A candidate that fits an empty buffer but for its END is classified as it stands. -/
theorem State.foldl_pushByte_candidate {s : State} {c : Bytes} (hc : isCandidate c = true)
    (hbuf : s.buf = []) (hovf : s.ovf = false) (hroom : ∀ d, s.cfg.bufDepth = some d → c.length ≤ d + 1) :
    c.foldl State.pushByte s = s.emptied.emitAll (candidateEvents c) := by
  obtain ⟨bs, hend, rfl⟩ := (isCandidate_iff c).1 hc
  rw [State.foldl_pushByte_concat_end hovf hend, hbuf, List.nil_append]
  intro d hd
  have := hroom d hd
  simp only [hbuf, List.length_append, List.length_cons, List.length_nil] at this ⊢
  omega

/-- An encoded frame is a candidate exactly when command and payload hold no END (R62, R123). -/
theorem isCandidate_encodeFrame_iff (k : Byte) (p : Bytes) :
    isCandidate (encodeFrame k p) = true ↔ k ≠ Config.endMark ∧ Config.endMark ∉ p := by
  have hhead : ¬ Config.radioAddr = Config.endMark ∧ ¬ Config.computerAddr = Config.endMark := by decide
  rw [isCandidate, encodeFrame, List.dropLast_concat, List.getLast?_concat, decide_eq_true rfl, Bool.true_and,
    ← endFree_iff]
  simp only [List.cons_append, List.nil_append, endFree_cons, ne_eq,
    Config.startMark_ne_endMark, hhead, not_false_eq_true, true_and]

/-- The FRAME events of a valid frame are the one with the frame itself (R102). -/
theorem filter_frame_candidateEvents (isFrame : OutEvent → Bool) (hframe : ∀ f, isFrame (.frame f) = true)
    (hother : ∀ e, (∀ f, e ≠ .frame f) → isFrame e = false) (k : Byte) (p : Bytes) :
    (candidateEvents (encodeFrame k p)).filter isFrame = [.frame (encodeFrame k p)] := by
  have hroute : ∀ m, (routeEvents m).filter isFrame = [] := by
    refine fun m => List.filter_eq_nil_iff.2 fun e he => Bool.eq_false_iff.1 (hother e ?_)
    rintro f rfl
    exact frame_not_mem_routeEvents m f he
  rw [encodeFrame_eq_rxBytes, candidateEvents_rxBytes, List.filter_cons_of_pos (hframe _), hroute]

/-- Settles O37: pushed into an empty unbounded buffer the frame is cut at its ENDs. Without an END inside it is
one piece; and a FRAME equal to it is a candidate, which has no END inside. -/
theorem encodedFrameSurvivesWithoutEnd : Obligations.EncodedFrameSurvivesWithoutEnd := by
  intro k p s hd hbuf hovf
  have hfed : (encodeFrame k p).foldl State.pushByte s = s.feed (encodeFrame k p) :=
    (State.feed_eq_foldl_of_unbounded _ hd hovf (by simp [hbuf])).symm
  rw [State.feed_unbounded (by simp [encodeFrame]) hd, hbuf, List.nil_append] at hfed
  refine ⟨_, (cutStream (encodeFrame k p)).1.flatMap candidateEvents, execAll_push _ s, ?_, ?_⟩
  · rw [hfed]
  refine Iff.trans ⟨fun hframes => ?_, fun hc => ?_⟩ (isCandidate_encodeFrame_iff k p)
  · exact (frame_mem_flatMap_cutStream (List.mem_of_mem_filter (hframes ▸ List.mem_singleton_self _))).2
  · rw [cutStream_candidate hc, List.flatMap_singleton]
    refine filter_frame_candidateEvents _ (fun f => rfl) (fun e he => ?_) k p
    cases e with
    | frame f => exact absurd rfl (he f)
    | _ => rfl

/-- A transmitted frame is an encoded frame of at most eleven bytes, on which the router calls no handler
(R74, R160). -/
theorem exists_encodeFrame_of_encode {o : NibbleOrder} {i : Instr} {f : Bytes}
    (h : encode o i = some (.txframe f)) :
    ∃ k p, f = encodeFrame k p ∧ p.length ≤ 5 ∧
      ∀ dst src, callerView (routeEvents { toAddr := dst, fromAddr := src, command := k, payload := p }) = [] := by
  cases i with
  | requestFrequency | requestSquelch | setMode | setSquelch | setMonitor =>
    cases h
    exact ⟨_, _, rfl, by simp, fun _ _ => rfl⟩
  | setFrequency hz =>
    obtain ⟨p, hp, hf⟩ := Option.map_eq_some_iff.1 h
    cases hf
    obtain ⟨-, rfl⟩ := (encodeFreq_some o hz p).1 hp
    exact ⟨_, _, rfl, by simp, fun _ _ => rfl⟩
  | _ => cases h

/-- A finite buffer of legal depth holds every transmitted frame but its END (R22). -/
theorem State.Inv.ten_le_depth {s : State} (h : s.Inv) {d : Nat} (hd : s.cfg.bufDepth = some d) : 10 ≤ d := by
  have hlegal := h.legal.1
  rw [Config.depthLegal, hd] at hlegal
  exact of_decide_eq_true hlegal

/-- Settles O59: the frame fits the buffer and is one candidate, on which the router calls no handler. -/
theorem echoedFramesReachNoHandler : Obligations.EchoedFramesReachNoHandler := by
  intro o i f s hcode hfree hinv hbuf
  obtain ⟨k, p, rfl, hlen, hsilent⟩ := exists_encodeFrame_of_encode hcode
  have hc : isCandidate (encodeFrame k p) = true := by
    rw [isCandidate, hfree, Bool.and_true]
    exact decide_eq_true List.getLast?_concat
  have hroom : ∀ d, s.cfg.bufDepth = some d → (encodeFrame k p).length ≤ d + 1 := by
    intro d hd
    have hdepth := hinv.ten_le_depth hd
    rw [encodeFrame_length]
    omega
  have hpushed := State.foldl_pushByte_candidate hc hbuf (hinv.emptyIsIdle hbuf).2 hroom
  refine ⟨_, _, execAll_push _ s, ?_, hsilent Config.radioAddr Config.computerAddr, ?_⟩
  · rw [hpushed]
    exact congrArg (s.out ++ ·) (candidateEvents_rxBytes _ _ k p)
  · rw [hpushed]
    rfl

/-! ### TICKs in a row (R105) -/

/-- TICKs on an empty buffer change nothing (R105). -/
theorem execAll_tick_idle {s : State} (h : s.buf = []) (k : Nat) :
    execAll (List.replicate k .tick) s = .next s := by
  induction k with
  | zero => rfl
  | succ k ih => rw [List.replicate_succ, execAll_cons (execTick_idle h), ih]

/-- Fewer TICKs than are left only count (R105). -/
theorem execAll_tick_counts {s : State} (hbuf : s.buf ≠ []) {k : Nat} (hk : s.idleCnt + k < s.cfg.idleTicks) :
    execAll (List.replicate k .tick) s = .next { s with idleCnt := s.idleCnt + k } := by
  induction k generalizing s with
  | zero => rfl
  | succ k ih =>
    have hcount : exec .tick s = .next { s with idleCnt := s.idleCnt + 1 } := by
      rw [execTick_armed hbuf, if_neg (by omega)]
    have hsum : s.idleCnt + 1 + k = s.idleCnt + (k + 1) := by omega
    have hrest := ih (s := { s with idleCnt := s.idleCnt + 1 }) hbuf (by simpa only [hsum] using hk)
    rw [List.replicate_succ, execAll_cons hcount, hrest]
    simp only [hsum]

/-- The TICK that reaches the count flushes (R105). -/
theorem execTick_expires {s : State} (hbuf : s.buf ≠ []) (h : s.idleCnt + 1 = s.cfg.idleTicks) :
    exec .tick s = .next { s with buf := [], idleCnt := 0, ovf := false,
                                  out := s.out ++ [.diag .idleFlush s.buf.length] } := by
  rw [execTick_armed hbuf, if_pos h, State.idleFlush_of_ne_nil hbuf]

/-- Settles O25: the last TICK is the one that flushes, after the others have counted. -/
theorem flushComesAtTheLastTick : Obligations.FlushComesAtTheLastTick := by
  intro s k
  refine ⟨fun hbuf => execAll_tick_idle hbuf k, fun hbuf hk => execAll_tick_counts hbuf hk,
    fun hbuf hpos hk => ?_⟩
  obtain ⟨j, rfl⟩ := Nat.exists_eq_add_of_le' hpos
  have hcounted := execAll_tick_counts hbuf (k := j) (by omega)
  rw [List.replicate_succ', execAll_append hcounted, execAll_singleton]
  exact execTick_expires hbuf (by simpa [Nat.add_assoc] using hk)

/-! ### One clock cycle (R188) -/

/-- Settles O60: the cycle's events in their order; a byte just pushed has restarted the timer, so the TICK after
it counts to 1. -/
theorem simultaneousEventsAreOrdered : Obligations.SimultaneousEventsAreOrdered := by
  refine ⟨fun _ _ s => execAll_singleton .reset s, fun _ _ => rfl, fun b s => execAll_singleton (.push b) s,
    fun s => execAll_singleton .tick s, fun _ => rfl, fun b s hb hroom _ hticks => ?_,
    fun b s hb hroom hticks => ?_⟩
  all_goals
    change execAll [.push b, .tick] s = _
    rw [execAll_cons (exec_push b s), execAll_singleton, State.pushByte_stored hb hroom]
  · rw [execTick_armed (by simp), if_neg (by simp; omega)]
  · rw [execTick_expires (by simp) (by simpa using hticks.symm), List.length_append, List.length_singleton]

/-! ### The places of the buffer (R21) -/

/-- An index beyond the old length reads nothing after an append either (R21). -/
theorem Memory.read_append_of_gt (m : Memory) (b : Byte) {a : Nat} (h : m.length < a) :
    (m.append b).read a 1 = m.read a 1 := by
  have hnew : ¬ a + 1 ≤ (m ++ [b]).length := by simp; omega
  have hold : ¬ a + 1 ≤ m.length := by omega
  rw [Memory.read, Memory.read, Memory.append, if_neg hnew, if_neg hold]

/-- Only the byte at the old length is new after an append (R21). -/
theorem Memory.read_append_of_ne (m : Memory) (b : Byte) {a : Nat} (h : a ≠ m.length) :
    (m.append b).read a 1 = m.read a 1 := by
  rcases Nat.lt_or_gt_of_ne h with hlt | hgt
  · exact m.read_append_of_lt b a hlt
  · exact m.read_append_of_gt b hgt

/-- An RXFRAME row emits events that its message decides, and does nothing else (R150, R156). -/
theorem exec_rxframe {i : Instr} (h : i.format = .rxframe) :
    ∃ es, ∀ s, exec i s = .next (s.emitAll es) := by
  cases i with
  | getFrequencyResponse | getFrequencyBadlen | getSquelchResponse | getSquelchEmpty | otherCommand =>
    exact ⟨_, fun _ => rfl⟩
  | _ => cases h

end Sys2Proof.Machine
end

section
/-! The two agents (R160, 60_exceptions.md sections 3 and 4): what any operation of each can do, what it leaves
alone, and that it depends on nothing of the other agent's. Every statement about all operations is proved by
these cases. -/

namespace Sys2Proof.Machine

/-- The receive agent's state, its output and the parameters of `r`, with all the rest of the state of `c`: the
command agent's lists, the line and the inputs. -/
def State.joined (r c : State) : State :=
  { r with written := c.written, cmdUpdates := c.cmdUpdates, replies := c.replies,
           lineFailed := c.lineFailed, readerEnded := c.readerEnded, choice := c.choice,
           pending := c.pending }

/-! ### The receive agent -/

/-- TICK as a function on the state (R105). -/
def State.ticked (s : State) : State :=
  if s.armed then if s.expires then s.idleFlush else { s with idleCnt := s.idleCnt + 1 } else s

theorem exec_tick (s : State) : exec .tick s = .next s.ticked := by
  change execTick s = _
  unfold execTick State.ticked
  split
  · split <;> rfl
  · rfl

/-- What an operation `i` of the receive agent can do, as a function on the state. -/
inductive ReceiveEffect (i : Instr) : (State → State) → Prop
  /-- Nothing. -/
  | keep : ReceiveEffect i id
  /-- The router's events on a message. -/
  | route (m : Message) : ReceiveEffect i (State.emitAll · (routeEvents m))
  /-- The events of a candidate that is CLASSIFY's operand. -/
  | classify (c : Bytes) (h : i = .classify c) : ReceiveEffect i (State.emitAll · (candidateEvents c))
  | push (b : Byte) : ReceiveEffect i (State.pushByte · b)
  | feed (bs : Bytes) : ReceiveEffect i (State.feed · bs)
  | tick : ReceiveEffect i State.ticked
  | empty : ReceiveEffect i State.emptied
  | flush : ReceiveEffect i State.idleFlush
  | overflow : ReceiveEffect i State.discardOverflow

/-- Every operation of the receive agent completes with one of these effects, the same in every state. -/
theorem exec_receive {i : Instr} (h : isReceive i = true) :
    ∃ f, ReceiveEffect i f ∧ ∀ s, exec i s = .next (f s) := by
  cases i with
  | nop => exact ⟨_, .keep, fun _ => rfl⟩
  | push b => exact ⟨_, .push b, fun _ => rfl⟩
  | tick => exact ⟨_, .tick, exec_tick⟩
  | reset => exact ⟨_, .empty, fun _ => rfl⟩
  | endByte | startByte | dataByte => exact ⟨_, .push _, fun _ => rfl⟩
  | getFrequencyResponse | getFrequencyBadlen | getSquelchResponse | getSquelchEmpty | otherCommand
  | dispatch => exact ⟨_, .route _, fun _ => rfl⟩
  | feed bs => exact ⟨_, .feed bs, fun _ => rfl⟩
  | classify c => exact ⟨_, .classify c rfl, fun _ => rfl⟩
  | idleFlush => exact ⟨_, .flush, fun _ => rfl⟩
  | discardOverflow => exact ⟨_, .overflow, fun _ => rfl⟩
  | _ => exact nomatch h

theorem State.pushByte_joined (r c : State) (b : Byte) :
    (r.joined c).pushByte b = (r.pushByte b).joined c := by
  by_cases hb : b = Config.endMark
  · subst hb
    cases hovf : r.ovf with
    | true => rw [State.pushByte_end_overflowed hovf, State.pushByte_end_overflowed (s := r.joined c) hovf]; rfl
    | false => rw [State.pushByte_end_closes hovf, State.pushByte_end_closes (s := r.joined c) hovf]; rfl
  · cases hroom : r.hasRoom with
    | true => rw [State.pushByte_stored hb hroom, State.pushByte_stored (s := r.joined c) hb hroom]; rfl
    | false => rw [State.pushByte_dropped hb hroom, State.pushByte_dropped (s := r.joined c) hb hroom]; rfl

theorem State.idleFlush_joined (r c : State) : (r.joined c).idleFlush = r.idleFlush.joined c := by
  by_cases hbuf : r.buf = []
  · rw [State.idleFlush_of_eq_nil hbuf, State.idleFlush_of_eq_nil (s := r.joined c) hbuf]; rfl
  · rw [State.idleFlush_of_ne_nil hbuf, State.idleFlush_of_ne_nil (s := r.joined c) hbuf]; rfl

theorem State.feed_joined (r c : State) (bs : Bytes) : (r.joined c).feed bs = (r.feed bs).joined c := by
  by_cases hne : bs = []
  · subst hne; rfl
  cases hd : r.cfg.bufDepth with
  | none => rw [State.feed_unbounded hne hd, State.feed_unbounded (s := r.joined c) hne hd]; rfl
  | some d =>
    rw [State.feed_bounded hd, State.feed_bounded (s := r.joined c) hd]
    exact List.foldl_hom (State.joined · c) fun r b => State.pushByte_joined r c b

theorem State.ticked_joined (r c : State) : (r.joined c).ticked = r.ticked.joined c := by
  have harmed : (r.joined c).armed = r.armed := rfl
  have hexpires : (r.joined c).expires = r.expires := rfl
  unfold State.ticked
  rw [harmed, hexpires]
  split
  · split
    · exact r.idleFlush_joined c
    · rfl
  · rfl

/-- An effect of the receive agent neither reads nor writes anything of the rest. -/
theorem ReceiveEffect.joined {i : Instr} {f : State → State} (h : ReceiveEffect i f) (r c : State) :
    f (r.joined c) = (f r).joined c := by
  cases h with
  | keep | route | classify | empty | overflow => rfl
  | push b => exact r.pushByte_joined c b
  | feed bs => exact r.feed_joined c bs
  | tick => exact r.ticked_joined c
  | flush => exact r.idleFlush_joined c

theorem State.foldl_pushByte_cfg_out (bs : Bytes) (s : State) :
    (bs.foldl State.pushByte s).cfg = s.cfg ∧ s.out <+: (bs.foldl State.pushByte s).out := by
  induction bs generalizing s with
  | nil => exact ⟨rfl, List.prefix_rfl⟩
  | cons b bs ih =>
    obtain ⟨-, hcfg, hout, -⟩ := pushByte_frame b s
    obtain ⟨hcfg', hout'⟩ := ih (s.pushByte b)
    exact ⟨hcfg'.trans hcfg, hout.trans hout'⟩

theorem State.feed_cfg_out (s : State) (bs : Bytes) : (s.feed bs).cfg = s.cfg ∧ s.out <+: (s.feed bs).out := by
  by_cases hne : bs = []
  · subst hne
    exact ⟨rfl, List.prefix_rfl⟩
  cases hd : s.cfg.bufDepth with
  | none =>
    rw [State.feed_unbounded hne hd]
    exact ⟨rfl, List.prefix_append _ _⟩
  | some d =>
    rw [State.feed_bounded hd]
    exact s.foldl_pushByte_cfg_out bs

theorem State.idleFlush_cfg_out (s : State) : s.idleFlush.cfg = s.cfg ∧ s.out <+: s.idleFlush.out := by
  by_cases hbuf : s.buf = []
  · rw [State.idleFlush_of_eq_nil hbuf]
    exact ⟨rfl, List.prefix_rfl⟩
  · rw [State.idleFlush_of_ne_nil hbuf]
    exact ⟨rfl, List.prefix_append _ _⟩

theorem State.ticked_cfg_out (s : State) : s.ticked.cfg = s.cfg ∧ s.out <+: s.ticked.out := by
  unfold State.ticked
  split
  · split
    · exact s.idleFlush_cfg_out
    · exact ⟨rfl, List.prefix_rfl⟩
  · exact ⟨rfl, List.prefix_rfl⟩

/-- An effect of the receive agent only adds output and keeps the parameters. -/
theorem ReceiveEffect.cfg_out {i : Instr} {f : State → State} (h : ReceiveEffect i f) (s : State) :
    (f s).cfg = s.cfg ∧ s.out <+: (f s).out := by
  cases h with
  | keep | empty => exact ⟨rfl, List.prefix_rfl⟩
  | route | classify | overflow => exact ⟨rfl, List.prefix_append _ _⟩
  | push b => exact s.foldl_pushByte_cfg_out [b]
  | feed bs => exact s.feed_cfg_out bs
  | tick => exact s.ticked_cfg_out
  | flush => exact s.idleFlush_cfg_out

/-- An effect of the receive agent leaves all the rest alone. -/
theorem ReceiveEffect.eq_joined {i : Instr} {f : State → State} (h : ReceiveEffect i f) (s : State) :
    f s = (f s).joined s :=
  h.joined s s

/-- Settles O57: an effect of the receive agent gives back the rest of the state it was given. -/
theorem receiveLeavesTheCommandAgentAlone : Obligations.ReceiveLeavesTheCommandAgentAlone := by
  intro i s hi
  obtain ⟨f, hf, hrun⟩ := exec_receive hi
  refine ⟨f s, hrun s, ?_⟩
  rw [hf.eq_joined s]
  exact ⟨rfl, rfl, rfl, rfl, rfl, rfl, (hf.cfg_out s).1, rfl⟩

/-! ### The command agent -/

theorem State.sendFrame_joined (r s : State) (k : Byte) (p : Bytes) :
    (r.joined s).sendFrame k p = r.joined (s.sendFrame k p) := by
  cases hline : s.lineFailed with
  | true => rw [s.sendFrame_failed k p hline, (r.joined s).sendFrame_failed k p hline]; rfl
  | false => rw [s.sendFrame_open k p hline, (r.joined s).sendFrame_open k p hline]; rfl

theorem State.notifyOrNot_joined (r s : State) (hz : Hz) :
    (r.joined s).notifyOrNot hz = r.joined (s.notifyOrNot hz) := by
  have hchoice : (r.joined s).choice = s.choice := rfl
  simp only [State.notifyOrNot, hchoice]
  split <;> rfl

/-- What an operation of the command agent can do, as a function on the state. -/
inductive CommandEffect : (State → State) → Prop
  | send (k : Byte) (p : Bytes) : CommandEffect (State.sendFrame · k p)
  /-- SET_FREQUENCY of a value that ENC_FREQ rejects. -/
  | reject : CommandEffect (State.answer · (.error .valueError))
  /-- SET_FREQUENCY on an open line. -/
  | sendAndNotify (k : Byte) (p : Bytes) (hz : Hz) : CommandEffect fun s => (s.sendFrame k p).notify hz
  /-- SET_FREQUENCY on a failed line. -/
  | sendAndMayNotify (k : Byte) (p : Bytes) (hz : Hz) :
      CommandEffect fun s => (s.sendFrame k p).notifyOrNot hz

/-- Every operation of the command agent completes with one of these effects, the same in all states with the
same parameters and the same line. -/
theorem exec_command {i : Instr} (h : isCommand i = true) (s : State) :
    ∃ f, CommandEffect f ∧
      ∀ r : State, r.cfg = s.cfg → r.lineFailed = s.lineFailed → exec i r = .next (f r) := by
  obtain ⟨k, p, hsend⟩ | ⟨hz, rfl⟩ := command_cases h
  · exact ⟨_, .send k p, fun r _ _ => hsend r⟩
  by_cases hlimit : 100000000 ≤ hz.toNat
  · exact ⟨_, .reject, fun r _ _ => execSetFrequency_of_limit_le hlimit r⟩
  obtain ⟨p, hp⟩ := exists_encodeFreq s.cfg.txOrder (Nat.not_le.1 hlimit)
  cases hline : s.lineFailed with
  | true => exact ⟨_, .sendAndMayNotify _ p hz, fun r hcfg hr => execSetFrequency_failed (hcfg ▸ hp) hr⟩
  | false => exact ⟨_, .sendAndNotify _ p hz, fun r hcfg hr => execSetFrequency_open (hcfg ▸ hp) hr⟩

/-- An effect of the command agent neither reads nor writes the receive agent's state, its output or the
parameters. -/
theorem CommandEffect.joined {f : State → State} (h : CommandEffect f) (r s : State) :
    f (r.joined s) = r.joined (f s) := by
  cases h with
  | send k p => exact r.sendFrame_joined s k p
  | reject => rfl
  | sendAndNotify k p hz => dsimp only; rw [State.sendFrame_joined]; rfl
  | sendAndMayNotify k p hz => dsimp only; rw [State.sendFrame_joined, State.notifyOrNot_joined]

theorem CommandEffect.eq_joined {f : State → State} (h : CommandEffect f) (s : State) :
    f s = s.joined (f s) :=
  h.joined s s

/-- What SEND and then a notification or none leave alone, and that the command agent's lists only grow. -/
theorem CommandEffect.frame {f : State → State} (h : CommandEffect f) (s : State) :
    s.written <+: (f s).written ∧ s.cmdUpdates <+: (f s).cmdUpdates ∧ s.replies <+: (f s).replies ∧
      (f s).lineFailed = s.lineFailed ∧ (f s).readerEnded = s.readerEnded ∧ (f s).pending = s.pending := by
  cases h with
  | send k p =>
    obtain ⟨-, -, -, -, -, hw, hu, hr, hl, he, -, hp⟩ := sendFrame_frame s k p
    exact ⟨hw, hu ▸ List.prefix_rfl, hr, hl, he, hp⟩
  | reject => exact ⟨List.prefix_rfl, List.prefix_rfl, List.prefix_append _ _, rfl, rfl, rfl⟩
  | sendAndNotify k p hz =>
    obtain ⟨-, -, -, -, -, hw, hu, hr, hl, he, -, hp⟩ := sendFrame_frame s k p
    exact ⟨hw, hu ▸ List.prefix_append _ _, hr, hl, he, hp⟩
  | sendAndMayNotify k p hz =>
    obtain ⟨-, -, -, -, -, hw, hu, hr, hl, he, -, hp⟩ := sendFrame_frame s k p
    obtain ⟨u, heq, hnew⟩ := (s.sendFrame k p).notifyOrNot_eq hz
    dsimp only
    rw [heq]
    refine ⟨hw, ?_, hr, hl, he, hp⟩
    obtain rfl | rfl := hnew
    · exact hu ▸ List.prefix_rfl
    · exact hu ▸ List.prefix_append _ _

/-- Settles O56: an effect of the command agent gives back the receive agent's part of the state. -/
theorem commandsLeaveTheReceiveAgentAlone : Obligations.CommandsLeaveTheReceiveAgentAlone := by
  intro i s hi
  obtain ⟨f, hf, hrun⟩ := exec_command hi s
  obtain ⟨-, -, -, hline, hreader, hpending⟩ := hf.frame s
  refine ⟨f s, hrun s rfl rfl, ?_, ?_, ?_, ?_, ?_, hline, hreader, hpending⟩
  all_goals rw [hf.eq_joined s]; rfl

/-- Settles O58: in either order the state is the receive agent's part of the one effect joined with the rest of
the other. -/
theorem theTwoAgentsCommute : Obligations.TheTwoAgentsCommute := by
  intro i j s hi hj
  obtain ⟨f, hf, hcommand⟩ := exec_command hi s
  obtain ⟨g, hg, hreceive⟩ := exec_receive hj
  have hfg : f (g s) = (g s).joined (f s) :=
    calc f (g s) = f ((g s).joined s) := by rw [← hg.eq_joined s]
      _ = (g s).joined (f s) := hf.joined (g s) s
  have hgf : g (f s) = (g s).joined (f s) :=
    calc g (f s) = g (s.joined (f s)) := by rw [← hf.eq_joined s]
      _ = (g s).joined (f s) := hg.joined s (f s)
  have hline : (g s).lineFailed = s.lineFailed := by rw [hg.eq_joined s]; rfl
  rw [execAll_cons (hcommand s rfl rfl), execAll_singleton, hreceive, hgf,
    execAll_cons (hreceive s), execAll_singleton, hcommand (g s) (hg.cfg_out s).1 hline, hfg]

/-- Settles O32: PUSH appends or keeps the buffer, and the other operations listed keep it. -/
theorem storedBytesKeepTheirPlace : Obligations.StoredBytesKeepTheirPlace := by
  constructor
  · intro b s t hb h
    obtain rfl := Host.Outcome.next.inj h
    cases hroom : s.hasRoom with
    | true =>
      rw [State.pushByte_stored hb hroom]
      exact ⟨fun a ha => s.buf.read_append_of_ne b ha, fun _ => s.buf.read_append_self b, nofun⟩
    | false =>
      rw [State.pushByte_dropped hb hroom]
      exact ⟨fun _ _ => rfl, nofun, fun _ => rfl⟩
  · intro i s t hi h a
    suffices hbuf : t.buf = s.buf by rw [hbuf]
    obtain hi | hi | rfl | ⟨c, rfl⟩ | ⟨m, rfl⟩ := hi
    · obtain ⟨u, hu, hbuf, -⟩ := commandsLeaveTheReceiveAgentAlone i s hi
      obtain rfl := Host.Outcome.next.inj (hu.symm.trans h)
      exact hbuf
    · obtain ⟨es, hes⟩ := exec_rxframe hi
      rw [hes] at h
      exact Host.Outcome.next.inj h ▸ rfl
    all_goals exact Host.Outcome.next.inj h ▸ rfl

end Sys2Proof.Machine
end

section
/-! The whole machine (R33, R46, R111, R115): what a step runs, the invariants, and what stays on record. -/

namespace Sys2Proof.Machine

/-! ### The step (R46, R115, R171) -/

theorem step_call {s : State} {i : Instr} {rest : List Input} (hp : s.pending = .call i :: rest) :
    step s = offer i { s with pending := rest } := by
  simp only [step, hp]

theorem step_code {s : State} {c : Code} {rest : List Input} {i : Instr} (hp : s.pending = .code c :: rest)
    (hd : decode s.cfg.txOrder c = .ok i) : step s = offer i { s with pending := rest } := by
  simp only [step, hp, hd]

theorem step_ioFailure {s : State} {side : IoSide} {rest : List Input}
    (hp : s.pending = .ioFailure side :: rest) :
    step s = .next ({ s with pending := rest }.ioFails side) := by
  simp only [step, hp]

/-- Settles O6: an operation that the environment offers is run while the reader loop does. -/
theorem stepRunsTheDecodedOperation : Obligations.StepRunsTheDecodedOperation := by
  refine ⟨fun s c rest i hp hd hread => ?_, fun s rest i hp hread => ?_,
    fun s c rest e hp hd => step_undecodable hp hd⟩
  · exact (step_code hp hd).trans (offer_eq_exec i _ hread)
  · exact (step_call hp).trans (offer_eq_exec i _ hread)

/-- Settles O7: the step's other branches. -/
theorem stepWithoutAnOperation : Obligations.StepWithoutAnOperation := by
  refine ⟨fun s hp => ?_, fun s rest hp => step_ioFailure hp, fun s rest hp => step_ioFailure hp,
    fun s rest hp => step_ioFailure hp, ?_⟩
  · simp only [step, hp]
  · rintro s rest i hended hline (hp | ⟨c, hp, hd⟩)
    · exact (step_call hp).trans (offer_unread i _ hended hline)
    · exact (step_code hp hd).trans (offer_unread i _ hended hline)

/-! ### Every operation -/

/-- EXTRACT completes only where the buffer holds an END; it cuts the buffer and answers the caller (R101). -/
theorem exec_extract_cases {s t : State} (h : exec .extract s = .next t) :
    Config.endMark ∈ s.buf ∧ ∃ m r, t = { s with buf := m }.answer r := by
  change execExtract s = _ at h
  unfold execExtract at h
  split at h
  · next hend => exact ⟨(Memory.hasEnd_iff _).1 hend, _, _, (Host.Outcome.next.inj h).symm⟩
  · cases h

/-- An operation that answers a next state had an effect of one of the agents, answered a caller, raised an error,
or was EXTRACT on a buffer with an END. -/
theorem exec_cases {i : Instr} {s t : State} (h : exec i s = .next t) :
    (∃ f, ReceiveEffect i f ∧ t = f s) ∨ (∃ f, CommandEffect f ∧ t = f s) ∨ (∃ r, t = s.answer r) ∨
      (∃ code n, t = s.raise code n) ∨
      (Config.endMark ∈ s.buf ∧ ∃ m r, t = { s with buf := m }.answer r) := by
  cases hi : isReceive i with
  | true =>
    obtain ⟨f, hf, hrun⟩ := exec_receive hi
    exact .inl ⟨f, hf, Host.Outcome.next.inj (h.symm.trans (hrun s))⟩
  | false =>
  cases hc : isCommand i with
  | true =>
    obtain ⟨f, hf, hrun⟩ := exec_command hc s
    exact .inr (.inl ⟨f, hf, Host.Outcome.next.inj (h.symm.trans (hrun s rfl rfl))⟩)
  | false =>
  refine .inr (.inr ?_)
  cases i with
  | extract => exact .inr (.inr (exec_extract_cases h))
  | encFrame | decFreq => exact .inl ⟨_, (Host.Outcome.next.inj h).symm⟩
  | decFrame f =>
    cases hm : decodeFrame f with
    | some m => rw [execDecFrame_of_some hm] at h; exact .inl ⟨_, (Host.Outcome.next.inj h).symm⟩
    | none => rw [execDecFrame_of_none hm] at h; exact .inr (.inl ⟨_, _, (Host.Outcome.next.inj h).symm⟩)
  | encFreq hz =>
    by_cases hlimit : 100000000 ≤ hz.toNat
    · rw [execEncFreq_of_limit_le hlimit] at h
      exact .inl ⟨_, (Host.Outcome.next.inj h).symm⟩
    · obtain ⟨p, hp⟩ := exists_encodeFreq s.cfg.txOrder (Nat.not_le.1 hlimit)
      rw [execEncFreq_of_some hp] at h
      exact .inl ⟨_, (Host.Outcome.next.inj h).symm⟩
  | decSql p =>
    cases p with
    | nil => exact .inr (.inl ⟨_, _, (Host.Outcome.next.inj h).symm⟩)
    | cons v rest => exact .inl ⟨_, (Host.Outcome.next.inj h).symm⟩
  | requestFrequency | requestSquelch | setFrequency | setMode | setSquelch | setMonitor | send => cases hc
  | _ => cases hi

/-! ### The invariants I1 to I5 (R33) -/

/-- PUSH keeps the invariants: it stores where there is room, drops in a full buffer, or empties (R103). -/
theorem State.Inv.pushByte {s : State} (h : s.Inv) (b : Byte) : (s.pushByte b).Inv := by
  by_cases hb : b = Config.endMark
  · subst hb
    cases hovf : s.ovf with
    | true => rw [State.pushByte_end_overflowed hovf]; exact (h.emitAll _).emptied
    | false => rw [State.pushByte_end_closes hovf]; exact h.emptied.emitAll _
  cases hroom : s.hasRoom with
  | true =>
    rw [State.pushByte_stored hb hroom]
    exact ⟨h.legal, Memory.append_wf s b h.bufWf hb hroom, fun hnil => absurd hnil (by simp), h.legal.2,
      h.unboundedNeverOverflows⟩
  | false =>
    obtain ⟨d, hd, hfull⟩ := s.hasRoom_eq_false_iff.1 hroom
    have hdepth := h.ten_le_depth hd
    rw [State.pushByte_dropped hb hroom]
    refine ⟨h.legal, h.bufWf, fun hnil => ?_, h.legal.2, fun hnone => ?_⟩
    · have hlen : s.buf.length = 0 := congrArg List.length hnil
      omega
    · exact nomatch hd.symm.trans hnone

theorem State.Inv.foldl_pushByte {s : State} (h : s.Inv) (bs : Bytes) : (bs.foldl State.pushByte s).Inv := by
  induction bs generalizing s with
  | nil => exact h
  | cons b bs ih => exact ih (h.pushByte b)

theorem State.Inv.feed {s : State} (h : s.Inv) (bs : Bytes) : (s.feed bs).Inv := by
  rw [h.feed_eq_foldl]
  exact h.foldl_pushByte bs

theorem State.Inv.idleFlush {s : State} (h : s.Inv) : s.idleFlush.Inv := by
  unfold State.idleFlush
  split
  · exact (h.emitAll _).emptied
  · exact h.emptied

/-- A TICK that does not expire counts below the bound (R105, I3). -/
theorem State.Inv.ticked {s : State} (h : s.Inv) : s.ticked.Inv := by
  unfold State.ticked
  split
  · next harmed =>
    split
    · exact h.idleFlush
    · next hexpires =>
      have hne : s.idleCnt + 1 ≠ s.cfg.idleTicks := fun heq => hexpires (decide_eq_true heq)
      have hbound : s.idleCnt + 1 < s.cfg.idleTicks := by
        have := h.idleBound
        omega
      exact ⟨h.legal, h.bufWf, fun hnil => absurd hnil (s.armed_iff.1 harmed), hbound,
        h.unboundedNeverOverflows⟩
  · exact h

theorem ReceiveEffect.inv {i : Instr} {f : State → State} (hf : ReceiveEffect i f) {s : State} (h : s.Inv) :
    (f s).Inv := by
  cases hf with
  | keep => exact h
  | route | classify => exact h.emitAll _
  | push b => exact h.pushByte b
  | feed bs => exact h.feed bs
  | tick => exact h.ticked
  | empty => exact h.emptied
  | flush => exact h.idleFlush
  | overflow => exact (h.emitAll _).emptied

/-- The command agent writes nothing of which the invariants speak. -/
theorem CommandEffect.inv {f : State → State} (hf : CommandEffect f) {s : State} (h : s.Inv) : (f s).Inv := by
  rw [hf.eq_joined s]
  exact h.of_triple rfl rfl rfl rfl

/-- Every operation that completes keeps the invariants; EXTRACT completes in no state that has them. -/
theorem State.Inv.exec {i : Instr} {s t : State} (h : s.Inv) (ht : exec i s = .next t) : t.Inv := by
  obtain ⟨f, hf, rfl⟩ | ⟨f, hf, rfl⟩ | ⟨r, rfl⟩ | ⟨code, n, rfl⟩ | ⟨hend, -⟩ := exec_cases ht
  · exact hf.inv h
  · exact hf.inv h
  · exact h.answer r
  · exact h.emitAll _
  · exact absurd hend h.endMark_not_mem

/-- Settles O9. -/
theorem invariantsHoldAtReset : Obligations.InvariantsHoldAtReset :=
  ⟨by decide, Memory.reset_wf, fun _ => ⟨rfl, rfl⟩, by decide, fun _ => rfl⟩

/-- Settles O10: taking an input off the list touches nothing of which the invariants speak, and failures and
operations keep them. -/
theorem everyStepKeepsTheInvariants : Obligations.EveryStepKeepsTheInvariants := by
  intro s t h ht
  have htaken : ∀ rest, ({ s with pending := rest } : State).Inv := fun rest => h.of_triple rfl rfl rfl rfl
  obtain ⟨-, rfl⟩ | ⟨side, rest, -, rfl⟩ | ⟨_, rest, -, rfl⟩ | ⟨_, rest, i, -, hrun⟩ := step_cases ht
  · exact h
  · exact (htaken rest).ioFails side
  · exact htaken rest
  · exact (htaken rest).exec hrun

/-! ### FEED, by the invariants (R100, R104) -/

/-- Settles O18: the state left has the invariants, so no END; the last byte's PUSH restarts the timer; and the
rest is the state's it was given. -/
theorem feedCompletes : Obligations.FeedCompletes := by
  intro bs s h
  have hrest : s.feed bs = (s.feed bs).joined s := s.feed_joined s bs
  refine ⟨s.feed bs, exec_feed bs s, ?_, fun hne => ?_, ?_⟩
  · exact (endFree_iff _).2 (h.feed bs).endMark_not_mem
  · obtain rfl | ⟨init, last, rfl⟩ := bs.eq_nil_or_concat'
    · exact absurd rfl hne
    · rw [h.feed_eq_foldl, List.foldl_concat]
      exact (pushByte_frame last _).1
  · rw [hrest]
    exact ⟨rfl, rfl, rfl, rfl⟩

/-- Settles O21: both sides are the PUSHes of all the bytes, as the state between has the invariants. -/
theorem chunkingDoesNotMatter : Obligations.ChunkingDoesNotMatter := by
  intro xs ys s h
  rw [execAll_cons (exec_feed xs s), execAll_singleton, exec_feed, exec_feed, h.feed_eq_foldl,
    (h.feed xs).feed_eq_foldl, h.feed_eq_foldl, List.foldl_append]

/-! ### What stays on record (log entries 2, 3 and 9) -/

/-- The outputs of `s` stand in front of those of `t`, the parameters are the same, and failures stay. -/
structure State.Grows (s t : State) : Prop where
  out         : s.out <+: t.out
  written     : s.written <+: t.written
  cmdUpdates  : s.cmdUpdates <+: t.cmdUpdates
  replies     : s.replies <+: t.replies
  cfg         : t.cfg = s.cfg
  lineFailed  : s.lineFailed = true → t.lineFailed = true
  readerEnded : s.readerEnded = true → t.readerEnded = true

theorem State.Grows.refl (s : State) : s.Grows s :=
  ⟨List.prefix_rfl, List.prefix_rfl, List.prefix_rfl, List.prefix_rfl, rfl, id, id⟩

/-- Neither the buffer nor the pending inputs are on record. -/
theorem State.Grows.of_taken {s t : State} {m : Memory} {rest : List Input}
    (h : ({ s with buf := m, pending := rest } : State).Grows t) : s.Grows t :=
  ⟨h.out, h.written, h.cmdUpdates, h.replies, h.cfg, h.lineFailed, h.readerEnded⟩

theorem State.grows_answer (s : State) (r : Reply) : s.Grows (s.answer r) :=
  { State.Grows.refl s with replies := List.prefix_append _ _ }

theorem State.grows_emitAll (s : State) (es : List OutEvent) : s.Grows (s.emitAll es) :=
  { State.Grows.refl s with out := List.prefix_append _ _ }

theorem State.grows_ioFails (s : State) (side : IoSide) : s.Grows (s.ioFails side) := by
  obtain ⟨hcfg, -, -, -, hout, hwritten, hupdates, hreplies, -, -⟩ := s.ioFails_frame side
  refine ⟨hout ▸ List.prefix_rfl, hwritten ▸ List.prefix_rfl, hupdates ▸ List.prefix_rfl, hreplies, hcfg, ?_, ?_⟩
  · cases side <;> simp [State.ioFails]
  · cases side <;> simp [State.ioFails]

theorem ReceiveEffect.grows {i : Instr} {f : State → State} (h : ReceiveEffect i f) (s : State) :
    s.Grows (f s) := by
  obtain ⟨hcfg, hout⟩ := h.cfg_out s
  have hrest := h.eq_joined s
  exact ⟨hout, by rw [hrest]; exact List.prefix_rfl, by rw [hrest]; exact List.prefix_rfl,
    by rw [hrest]; exact List.prefix_rfl, hcfg, by rw [hrest]; exact id, by rw [hrest]; exact id⟩

theorem CommandEffect.grows {f : State → State} (h : CommandEffect f) (s : State) : s.Grows (f s) := by
  obtain ⟨hwritten, hupdates, hreplies, hline, hreader, -⟩ := h.frame s
  have hown := h.eq_joined s
  exact ⟨by rw [hown]; exact List.prefix_rfl, hwritten, hupdates, hreplies, by rw [hown]; rfl,
    hline.trans, hreader.trans⟩

theorem State.grows_exec {i : Instr} {s t : State} (h : exec i s = .next t) : s.Grows t := by
  obtain ⟨f, hf, rfl⟩ | ⟨f, hf, rfl⟩ | ⟨r, rfl⟩ | ⟨code, n, rfl⟩ | ⟨-, m, r, rfl⟩ := exec_cases h
  · exact hf.grows s
  · exact hf.grows s
  · exact s.grows_answer r
  · exact s.grows_emitAll _
  · exact (State.grows_answer { s with buf := m } r).of_taken

/-- A step keeps everything on record. -/
theorem State.grows_step {s t : State} (h : step s = .next t) : s.Grows t := by
  obtain ⟨-, rfl⟩ | ⟨side, rest, -, rfl⟩ | ⟨_, rest, -, rfl⟩ | ⟨_, rest, i, -, hrun⟩ := step_cases h
  · exact .refl _
  · exact (State.grows_ioFails { s with pending := rest } side).of_taken
  · exact (State.Grows.refl { s with pending := rest }).of_taken
  · exact (State.grows_exec hrun).of_taken

/-- Settles O11. -/
theorem outputsOnlyGrow : Obligations.OutputsOnlyGrow := by
  intro s t h
  obtain ⟨hout, hwritten, hupdates, hreplies, hcfg, hline, hreader⟩ := State.grows_step h
  exact ⟨hout, hwritten, hupdates, hreplies, hcfg, hline, hreader⟩

/-! ### The FRAME events (R111 P3 and P4) -/

/-- `t` has more output than `s`, in which every FRAME carries a candidate that is a valid frame. -/
def State.EmitsValid (s t : State) : Prop :=
  ∃ es, t.out = s.out ++ es ∧
    ∀ c, OutEvent.frame c ∈ es → validFrame c = true ∧ isCandidate c = true

theorem State.EmitsValid.of_out_eq {s t : State} (h : t.out = s.out) : s.EmitsValid t :=
  ⟨[], by rw [h, List.append_nil], nofun⟩

theorem State.EmitsValid.trans {s t u : State} (hst : s.EmitsValid t) (htu : t.EmitsValid u) :
    s.EmitsValid u := by
  obtain ⟨es, hes, hvalid⟩ := hst
  obtain ⟨fs, hfs, hvalid'⟩ := htu
  refine ⟨es ++ fs, by rw [hfs, hes, List.append_assoc], fun c hc => ?_⟩
  exact (List.mem_append.1 hc).elim (hvalid c) (hvalid' c)

theorem State.EmitsValid.diag {s t : State} {code : DiagCode} {n : Nat}
    (h : t.out = s.out ++ [.diag code n]) : s.EmitsValid t :=
  ⟨_, h, by simp⟩

theorem State.EmitsValid.candidate {s t : State} {c : Bytes} (hc : isCandidate c = true)
    (h : t.out = s.out ++ candidateEvents c) : s.EmitsValid t := by
  refine ⟨_, h, fun f hf => ?_⟩
  obtain ⟨rfl, hv⟩ := (frame_mem_candidateEvents_iff f c).1 hf
  exact ⟨hv, hc⟩

/-- PUSH classifies the buffer and END, which are a candidate as the buffer holds no END (I1). -/
theorem State.Inv.emitsValid_pushByte {s : State} (h : s.Inv) (b : Byte) : s.EmitsValid (s.pushByte b) := by
  by_cases hb : b = Config.endMark
  · subst hb
    cases hovf : s.ovf with
    | true => exact .diag (by rw [State.pushByte_end_overflowed hovf]; rfl)
    | false =>
      have hend := h.endMark_not_mem
      exact .candidate ((isCandidate_iff _).2 ⟨s.buf, hend, rfl⟩) (by rw [State.pushByte_end_closes hovf]; rfl)
  · cases hroom : s.hasRoom with
    | true => exact .of_out_eq (by rw [State.pushByte_stored hb hroom])
    | false => exact .of_out_eq (by rw [State.pushByte_dropped hb hroom])

theorem State.Inv.emitsValid_foldl_pushByte {s : State} (h : s.Inv) (bs : Bytes) :
    s.EmitsValid (bs.foldl State.pushByte s) := by
  induction bs generalizing s with
  | nil => exact .of_out_eq rfl
  | cons b bs ih => exact (h.emitsValid_pushByte b).trans (ih (h.pushByte b))

theorem State.Inv.emitsValid_feed {s : State} (h : s.Inv) (bs : Bytes) : s.EmitsValid (s.feed bs) := by
  rw [h.feed_eq_foldl]
  exact h.emitsValid_foldl_pushByte bs

theorem State.emitsValid_idleFlush (s : State) : s.EmitsValid s.idleFlush := by
  unfold State.idleFlush
  split
  · exact .diag rfl
  · exact .of_out_eq rfl

theorem State.emitsValid_ticked (s : State) : s.EmitsValid s.ticked := by
  unfold State.ticked
  split
  · split
    · exact s.emitsValid_idleFlush
    · exact .of_out_eq rfl
  · exact .of_out_eq rfl

theorem ReceiveEffect.emitsValid {i : Instr} {f : State → State} (hf : ReceiveEffect i f)
    (hwf : i.wf = true) {s : State} (h : s.Inv) : s.EmitsValid (f s) := by
  cases hf with
  | keep | empty => exact .of_out_eq rfl
  | route m => exact ⟨_, rfl, fun c hc => absurd hc (frame_not_mem_routeEvents m c)⟩
  | classify c hi =>
    subst hi
    exact .candidate hwf rfl
  | push b => exact h.emitsValid_pushByte b
  | feed bs => exact h.emitsValid_feed bs
  | tick => exact s.emitsValid_ticked
  | flush => exact s.emitsValid_idleFlush
  | overflow => exact .diag rfl

/-- Settles O12: what the buffer gives CLASSIFY is a candidate, and CLASSIFY called by itself takes one. -/
theorem onlyValidFramesAreEmitted : Obligations.OnlyValidFramesAreEmitted := by
  intro i s t hwf h ht
  change s.EmitsValid t
  obtain ⟨f, hf, rfl⟩ | ⟨f, hf, rfl⟩ | ⟨r, rfl⟩ | ⟨code, n, rfl⟩ | ⟨-, m, r, rfl⟩ := exec_cases ht
  · exact hf.emitsValid hwf h
  · exact .of_out_eq (by rw [hf.eq_joined s]; rfl)
  · exact .of_out_eq rfl
  · exact .diag rfl
  · exact .of_out_eq rfl

end Sys2Proof.Machine
end
